-- ==== Sys2Proof/Word.lean ====
section
/-!
DEFINITION. Word.lean: the widths of the hardware's values (spec/00_scope.md R4, R5): bytes, the 9-bit program counter,
register indices.
-/

namespace Sys2Proof

/-- An 8-bit unsigned cell: a register, a memory cell, an opcode or operand byte (R4 `CELL_BITS`, `XLEN`). -/
abbrev Byte := BitVec 8

/-- The 9-bit program counter (R4 `PC_BITS`, R14; the width is the spec's own decision D1, log entry 5). -/
abbrev PcWord := BitVec 9

/-- The index of a general register, 0 to 7 (R4 `NREGS`, R11). -/
abbrev RegIdx := Fin 8

end Sys2Proof
end

