-- ==== Sys2Proof/Config.lean ====
section
/-!
DEFINITION. Config.lean: the implementation parameters of spec/00_scope.md R4. Every one is fixed by the spec; the spec
leaves no value to be drawn (R9), so there is no free value here (log entry 18).
-/

namespace Sys2Proof.Config

/-- `MEM_SIZE`: the number of memory cells; valid addresses are 0 to 255 (R4, R30). -/
abbrev memSize : Nat := 256

/-- `NREGS`: the number of general registers (R4, R11). -/
abbrev nRegs : Nat := 8

/-- `SP_INDEX`: the register that is the stack pointer (R4, R12). -/
abbrev spIndex : RegIdx := 7

/-- `SP_RESET`: the reset value of register 7 (R4, R23). -/
abbrev spReset : Byte := 0xF4

/-- `PC_RESET`: the reset value of the program counter (R4, R23, R141). -/
abbrev pcReset : PcWord := 0

/-- `MAX_OPERANDS`: the operand bytes fetched with every opcode (R4, R71). -/
abbrev maxOperands : Nat := 2

end Sys2Proof.Config
end

