-- ==== Sys2Proof/Syntax.lean ====
section
/-!
DEFINITION. Syntax.lean: the instructions, one constructor for each row of spec/opcode_table.json: the thirteen
instructions and the eleven byte classes that hold no instruction (spec/30_encoding.md R55 to R59).
-/

namespace Sys2Proof

/-- An operand latch: the byte fetch read, or the mark `oob` of a read past address 255, which is no byte and is never
computed with (spec/20_memory.md R33, spec/40_fetch_decode_loop.md R71). -/
inductive Latch where
  | byte (b : Byte)
  | oob
deriving DecidableEq, Repr

/-- One constructor per row of the opcode table. `cnt` is `ir[7:6]`; `b5` and `b3` are the opcode bits the decoder does
not look at in that row (bit 5 in the flow class, bit 3 everywhere: R52, R54, R57); `opa`, `opb` are the latches of the
operand bytes the instruction names (R53), as fetched: an operand byte that names no register, or that lies past the end
of memory, is still an operand (log entry 14). -/
inductive Instr where
  /-- HLT, `cc00x001` (R90). -/
  | hlt (cnt : BitVec 2) (b3 : Bool)
  /-- LDI r, i: `cc00x010` (R91). -/
  | ldi (cnt : BitVec 2) (b3 : Bool) (opa opb : Latch)
  /-- PRN r: `cc00x111` (R92). -/
  | prn (cnt : BitVec 2) (b3 : Bool) (opa : Latch)
  /-- PUSH r: `cc00x101` (R93). -/
  | push (cnt : BitVec 2) (b3 : Bool) (opa : Latch)
  /-- POP r: `cc00x110` (R94). -/
  | pop (cnt : BitVec 2) (b3 : Bool) (opa : Latch)
  /-- ADD a, b: `cc10x000` (R101). -/
  | add (cnt : BitVec 2) (b3 : Bool) (opa opb : Latch)
  /-- MUL a, b: `cc10x010` (R102). -/
  | mul (cnt : BitVec 2) (b3 : Bool) (opa opb : Latch)
  /-- CMP a, b: `cc10x111` (R103). -/
  | cmp (cnt : BitVec 2) (b3 : Bool) (opa opb : Latch)
  /-- CALL r: `ccx1x000` (R110). -/
  | call (cnt : BitVec 2) (b5 b3 : Bool) (opa : Latch)
  /-- RET: `ccx1x001` (R111). -/
  | ret (cnt : BitVec 2) (b5 b3 : Bool)
  /-- JMP r: `ccx1x100` (R112). -/
  | jmp (cnt : BitVec 2) (b5 b3 : Bool) (opa : Latch)
  /-- JEQ r: `ccx1x101` (R113). -/
  | jeq (cnt : BitVec 2) (b5 b3 : Bool) (opa : Latch)
  /-- JNE r: `ccx1x110` (R114). -/
  | jne (cnt : BitVec 2) (b5 b3 : Bool) (opa : Latch)
  /-- Core class, selector 000, no entry: `cc00x000` (R77). -/
  | unknownCore0 (cnt : BitVec 2) (b3 : Bool)
  /-- Core class, selector 011, no entry: `cc00x011` (R77). -/
  | unknownCore3 (cnt : BitVec 2) (b3 : Bool)
  /-- Core class, selector 100, no entry: `cc00x100` (R77). -/
  | unknownCore4 (cnt : BitVec 2) (b3 : Bool)
  /-- ALU class, selector 001, no entry: `cc10x001` (R104). -/
  | unsupportedAlu1 (cnt : BitVec 2) (b3 : Bool)
  /-- ALU class, selector 011, no entry: `cc10x011` (R104). -/
  | unsupportedAlu3 (cnt : BitVec 2) (b3 : Bool)
  /-- ALU class, selector 100, no entry: `cc10x100` (R104). -/
  | unsupportedAlu4 (cnt : BitVec 2) (b3 : Bool)
  /-- ALU class, selector 101, no entry: `cc10x101` (R104). -/
  | unsupportedAlu5 (cnt : BitVec 2) (b3 : Bool)
  /-- ALU class, selector 110, no entry: `cc10x110` (R104). -/
  | unsupportedAlu6 (cnt : BitVec 2) (b3 : Bool)
  /-- Flow class, selector 010, no entry: `ccx1x010` (R77). -/
  | unknownFlow2 (cnt : BitVec 2) (b5 b3 : Bool)
  /-- Flow class, selector 011, no entry: `ccx1x011` (R77). -/
  | unknownFlow3 (cnt : BitVec 2) (b5 b3 : Bool)
  /-- Flow class, selector 111, no entry: `ccx1x111` (R77). -/
  | unknownFlow7 (cnt : BitVec 2) (b5 b3 : Bool)
deriving DecidableEq, Repr

end Sys2Proof
end

