-- ==== Sys2Proof/WellFormed.lean ====
section
/-!
DEFINITION. WellFormed.lean: which instruction terms fetch can produce. Two latches filled from `pc + 1` and `pc + 2`
(spec/40_fetch_decode_loop.md R71): where the first is out of bounds the second is too (spec/60_exceptions.md R122). Every
other term of Instr stands for bytes of memory.
-/

namespace Sys2Proof

/-- The two operand latches of one fetch: the second holds a byte only if the first does (R71, R122). -/
def latchesInOrder : Latch → Latch → Bool
  | .oob, .byte _ => false
  | _, _ => true

/-- The check of an instruction term: only the two-operand instructions can fail it. -/
def Instr.wf : Instr → Bool
  | .ldi _ _ a b => latchesInOrder a b
  | .add _ _ a b => latchesInOrder a b
  | .mul _ _ a b => latchesInOrder a b
  | .cmp _ _ a b => latchesInOrder a b
  | .hlt _ _ | .prn _ _ _ | .push _ _ _ | .pop _ _ _ => true
  | .call _ _ _ _ | .ret _ _ _ | .jmp _ _ _ _ | .jeq _ _ _ _ | .jne _ _ _ _ => true
  | .unknownCore0 _ _ | .unknownCore3 _ _ | .unknownCore4 _ _ => true
  | .unsupportedAlu1 _ _ | .unsupportedAlu3 _ _ | .unsupportedAlu4 _ _ => true
  | .unsupportedAlu5 _ _ | .unsupportedAlu6 _ _ => true
  | .unknownFlow2 _ _ _ | .unknownFlow3 _ _ _ | .unknownFlow7 _ _ _ => true

/-- An instruction is well-formed when it passes the check. -/
abbrev Instr.WellFormed (i : Instr) : Prop := i.wf = true

end Sys2Proof
end

