-- ==== Sys2Proof/Decode.lean ====
section
/-!
DEFINITION. Decode.lean: the opcode byte's fields (spec/30_encoding.md R51), routing (R54), the three dispatch tables
(R55), the decoder, total on any bytes, and after it the encoder written from the same tables.
-/

namespace Sys2Proof

/-- The fields of the opcode byte (R51); bit 3 is kept only so that the byte can be reported and encoded again (R52). -/
structure Fields where
  cnt : BitVec 2
  alu : Bool
  setspc : Bool
  bit3 : Bool
  sel : BitVec 3
deriving DecidableEq, Repr

/-- `cnt = ir[7:6]`, `alu = ir[5]`, `setspc = ir[4]`, `sel = ir[2:0]` (R51). -/
def fieldsOf (ir : Byte) : Fields where
  cnt := ir.extractLsb' 6 2
  alu := ir.getLsbD 5
  setspc := ir.getLsbD 4
  bit3 := ir.getLsbD 3
  sel := ir.extractLsb' 0 3

/-- The three execution units (spec/00_scope.md R7). -/
inductive ExecUnit where
  | coreControl
  | alu
  | flowControl
deriving DecidableEq, Repr

/-- Routing: bit 4 has priority over bit 5 (R54). -/
def Fields.unit (f : Fields) : ExecUnit :=
  if f.setspc then .flowControl else if f.alu then .alu else .coreControl

/-- The Core Control unit's table (R55, R95). -/
def decodeCore (f : Fields) (opa opb : Latch) : Instr :=
  match f.sel.toNat with
  | 0 => .unknownCore0 f.cnt f.bit3
  | 1 => .hlt f.cnt f.bit3
  | 2 => .ldi f.cnt f.bit3 opa opb
  | 3 => .unknownCore3 f.cnt f.bit3
  | 4 => .unknownCore4 f.cnt f.bit3
  | 5 => .push f.cnt f.bit3 opa
  | 6 => .pop f.cnt f.bit3 opa
  | _ => .prn f.cnt f.bit3 opa

/-- The ALU's table (R55). -/
def decodeAlu (f : Fields) (opa opb : Latch) : Instr :=
  match f.sel.toNat with
  | 0 => .add f.cnt f.bit3 opa opb
  | 1 => .unsupportedAlu1 f.cnt f.bit3
  | 2 => .mul f.cnt f.bit3 opa opb
  | 3 => .unsupportedAlu3 f.cnt f.bit3
  | 4 => .unsupportedAlu4 f.cnt f.bit3
  | 5 => .unsupportedAlu5 f.cnt f.bit3
  | 6 => .unsupportedAlu6 f.cnt f.bit3
  | _ => .cmp f.cnt f.bit3 opa opb

/-- The Flow Control unit's table (R55). -/
def decodeFlow (f : Fields) (opa : Latch) : Instr :=
  match f.sel.toNat with
  | 0 => .call f.cnt f.alu f.bit3 opa
  | 1 => .ret f.cnt f.alu f.bit3
  | 2 => .unknownFlow2 f.cnt f.alu f.bit3
  | 3 => .unknownFlow3 f.cnt f.alu f.bit3
  | 4 => .jmp f.cnt f.alu f.bit3 opa
  | 5 => .jeq f.cnt f.alu f.bit3 opa
  | 6 => .jne f.cnt f.alu f.bit3 opa
  | _ => .unknownFlow7 f.cnt f.alu f.bit3

/-- The decoder: the opcode byte and the two operand latches to an instruction, total on the 256 byte values (R58, R73). -/
def decode (ir : Byte) (opa opb : Latch) : Instr :=
  let f := fieldsOf ir
  match f.unit with
  | .flowControl => decodeFlow f opa
  | .alu => decodeAlu f opa opb
  | .coreControl => decodeCore f opa opb

/-- Why bytes decode to no instruction: every opcode byte decodes, so only its absence is left (R58, R72). -/
inductive DecodeError where
  | noOpcode
deriving DecidableEq, Repr

/-- The latches that the bytes after the opcode fill: what is missing is `oob` (R71). -/
def latchAt (bytes : List Byte) (k : Nat) : Latch :=
  match bytes[k]? with
  | some b => .byte b
  | none => .oob

/-- The decoder on the bytes of memory from the opcode upward, the opcode at the lowest address (R36). Bytes after the
second operand byte are not looked at (R60: fetch never reads a third operand byte). -/
def decodeBytes : List Byte → Except DecodeError Instr
  | [] => .error .noOpcode
  | ir :: rest => .ok (decode ir (latchAt rest 0) (latchAt rest 1))

/-- The `cnt` field of an instruction's opcode. -/
def Instr.cnt : Instr → BitVec 2
  | .hlt c _ | .ldi c _ _ _ | .prn c _ _ | .push c _ _ | .pop c _ _ => c
  | .add c _ _ _ | .mul c _ _ _ | .cmp c _ _ _ => c
  | .call c _ _ _ | .ret c _ _ | .jmp c _ _ _ | .jeq c _ _ _ | .jne c _ _ _ => c
  | .unknownCore0 c _ | .unknownCore3 c _ | .unknownCore4 c _ => c
  | .unsupportedAlu1 c _ | .unsupportedAlu3 c _ | .unsupportedAlu4 c _ => c
  | .unsupportedAlu5 c _ | .unsupportedAlu6 c _ => c
  | .unknownFlow2 c _ _ | .unknownFlow3 c _ _ | .unknownFlow7 c _ _ => c

/-- The unit whose class an instruction's opcode is in (R54, R55). -/
def Instr.unit : Instr → ExecUnit
  | .hlt _ _ | .ldi _ _ _ _ | .prn _ _ _ | .push _ _ _ | .pop _ _ _ => .coreControl
  | .unknownCore0 _ _ | .unknownCore3 _ _ | .unknownCore4 _ _ => .coreControl
  | .add _ _ _ _ | .mul _ _ _ _ | .cmp _ _ _ _ => .alu
  | .unsupportedAlu1 _ _ | .unsupportedAlu3 _ _ | .unsupportedAlu4 _ _ => .alu
  | .unsupportedAlu5 _ _ | .unsupportedAlu6 _ _ => .alu
  | .call _ _ _ _ | .ret _ _ _ | .jmp _ _ _ _ | .jeq _ _ _ _ | .jne _ _ _ _ => .flowControl
  | .unknownFlow2 _ _ _ | .unknownFlow3 _ _ _ | .unknownFlow7 _ _ _ => .flowControl

/-- The instruction's length in bytes, from the `cnt` field alone (R50, R60). -/
def Instr.length (i : Instr) : Nat := 1 + i.cnt.toNat

/-- The number of operand bytes the canonical encoding counts: the format of the instruction, Z, R, RR or RI (R50, R56). -/
def Instr.formatCnt (i : Instr) : Option (BitVec 2) :=
  match i with
  | .hlt _ _ | .ret _ _ _ => some 0
  | .prn _ _ _ | .push _ _ _ | .pop _ _ _ => some 1
  | .call _ _ _ _ | .jmp _ _ _ _ | .jeq _ _ _ _ | .jne _ _ _ _ => some 1
  | .ldi _ _ _ _ | .add _ _ _ _ | .mul _ _ _ _ | .cmp _ _ _ _ => some 2
  | .unknownCore0 _ _ | .unknownCore3 _ _ | .unknownCore4 _ _ => none
  | .unsupportedAlu1 _ _ | .unsupportedAlu3 _ _ | .unsupportedAlu4 _ _ => none
  | .unsupportedAlu5 _ _ | .unsupportedAlu6 _ _ => none
  | .unknownFlow2 _ _ _ | .unknownFlow3 _ _ _ | .unknownFlow7 _ _ _ => none

/-- The opcode byte put together from its fields, bit 7 first (R51). -/
def opcodeByte (cnt : BitVec 2) (alu setspc b3 : Bool) (sel : BitVec 3) : Byte :=
  cnt ++ BitVec.ofBool alu ++ BitVec.ofBool setspc ++ BitVec.ofBool b3 ++ sel

/-- The opcode byte of an instruction (R55, R57). -/
def Instr.opcode : Instr → Byte
  | .unknownCore0 c x => opcodeByte c false false x 0b000
  | .hlt c x => opcodeByte c false false x 0b001
  | .ldi c x _ _ => opcodeByte c false false x 0b010
  | .unknownCore3 c x => opcodeByte c false false x 0b011
  | .unknownCore4 c x => opcodeByte c false false x 0b100
  | .push c x _ => opcodeByte c false false x 0b101
  | .pop c x _ => opcodeByte c false false x 0b110
  | .prn c x _ => opcodeByte c false false x 0b111
  | .add c x _ _ => opcodeByte c true false x 0b000
  | .unsupportedAlu1 c x => opcodeByte c true false x 0b001
  | .mul c x _ _ => opcodeByte c true false x 0b010
  | .unsupportedAlu3 c x => opcodeByte c true false x 0b011
  | .unsupportedAlu4 c x => opcodeByte c true false x 0b100
  | .unsupportedAlu5 c x => opcodeByte c true false x 0b101
  | .unsupportedAlu6 c x => opcodeByte c true false x 0b110
  | .cmp c x _ _ => opcodeByte c true false x 0b111
  | .call c y x _ => opcodeByte c y true x 0b000
  | .ret c y x => opcodeByte c y true x 0b001
  | .unknownFlow2 c y x => opcodeByte c y true x 0b010
  | .unknownFlow3 c y x => opcodeByte c y true x 0b011
  | .jmp c y x _ => opcodeByte c y true x 0b100
  | .jeq c y x _ => opcodeByte c y true x 0b101
  | .jne c y x _ => opcodeByte c y true x 0b110
  | .unknownFlow7 c y x => opcodeByte c y true x 0b111

/-- The bytes a latch stands for: none past the end of memory. -/
def Latch.bytes : Latch → List Byte
  | .byte b => [b]
  | .oob => []

/-- The operand latches an instruction names, in address order (R36, R53). -/
def Instr.operands : Instr → List Latch
  | .ldi _ _ a b | .add _ _ a b | .mul _ _ a b | .cmp _ _ a b => [a, b]
  | .prn _ _ a | .push _ _ a | .pop _ _ a => [a]
  | .call _ _ _ a | .jmp _ _ _ a | .jeq _ _ _ a | .jne _ _ _ a => [a]
  | .hlt _ _ | .ret _ _ _ => []
  | .unknownCore0 _ _ | .unknownCore3 _ _ | .unknownCore4 _ _ => []
  | .unsupportedAlu1 _ _ | .unsupportedAlu3 _ _ | .unsupportedAlu4 _ _ => []
  | .unsupportedAlu5 _ _ | .unsupportedAlu6 _ _ => []
  | .unknownFlow2 _ _ _ | .unknownFlow3 _ _ _ | .unknownFlow7 _ _ _ => []

/-- The operand bytes an instruction names, in address order (R36). -/
def Instr.operandBytes (i : Instr) : List Byte := i.operands.flatMap Latch.bytes

/-- Every operand the instruction names is a byte of memory. -/
def Instr.complete (i : Instr) : Bool := i.operands.all (· != .oob)

/-- The encoder: the opcode byte and the operand bytes the instruction uses, at ascending addresses (R36, R50). -/
def encode (i : Instr) : List Byte := i.opcode :: i.operandBytes

/-- The opcode table's mask of an instruction's row (R57: 0x37 for core and ALU, 0x17 for flow). -/
def Instr.rowMask (i : Instr) : Byte :=
  match i.unit with
  | .coreControl | .alu => 0x37
  | .flowControl => 0x17

/-- The opcode table's match of an instruction's row (R57, R58; spec/opcode_table.json). -/
def Instr.rowMatch : Instr → Byte
  | .hlt _ _ => 0x01
  | .ldi _ _ _ _ => 0x02
  | .prn _ _ _ => 0x07
  | .push _ _ _ => 0x05
  | .pop _ _ _ => 0x06
  | .add _ _ _ _ => 0x20
  | .mul _ _ _ _ => 0x22
  | .cmp _ _ _ _ => 0x27
  | .call _ _ _ _ => 0x10
  | .ret _ _ _ => 0x11
  | .jmp _ _ _ _ => 0x14
  | .jeq _ _ _ _ => 0x15
  | .jne _ _ _ _ => 0x16
  | .unknownCore0 _ _ => 0x00
  | .unknownCore3 _ _ => 0x03
  | .unknownCore4 _ _ => 0x04
  | .unsupportedAlu1 _ _ => 0x21
  | .unsupportedAlu3 _ _ => 0x23
  | .unsupportedAlu4 _ _ => 0x24
  | .unsupportedAlu5 _ _ => 0x25
  | .unsupportedAlu6 _ _ => 0x26
  | .unknownFlow2 _ _ _ => 0x12
  | .unknownFlow3 _ _ _ => 0x13
  | .unknownFlow7 _ _ _ => 0x17

/-- Whether an instruction's opcode is the one canonical byte of R56: the format's count, bit 3 clear and, in the flow
class, bit 5 clear; every other byte of its row is an alias (R57). -/
def Instr.canonical (i : Instr) : Bool :=
  i.formatCnt == some i.cnt && i.opcode &&& (0x3F &&& ~~~ i.rowMask) == 0

/-- The bytes of a table word: byte k is bits 8k + 7 to 8k of the `nbits` low bits of `w`; the bits above `nbits` are 0,
up to the longest instruction fetch reads, the opcode and two operand bytes (R71; log entry 15). -/
def tableBytes (nbits w : Nat) : List Byte :=
  let v := w % 2 ^ nbits
  [BitVec.ofNat 8 v, BitVec.ofNat 8 (v / 256), BitVec.ofNat 8 (v / 65536)]

/-- The instruction the decoder reads from a table word. -/
def decodeTableWord (nbits w : Nat) : Option Instr :=
  match decodeBytes (tableBytes nbits w) with
  | .ok i => some i
  | .error _ => none

end Sys2Proof
end

