-- ==== Sys2Proof/Machine/State.lean ====
section
/-!
DEFINITION. Machine/State.lean: the machine's state as spec/10_state.md R10 lists it, its reset value (R23), and the two
types of stops. State is plain data.
-/

namespace Sys2Proof.Machine

open Sys2Proof

/-- The flags register: three single-bit fields (R16). -/
structure Flags where
  l : Bool
  g : Bool
  e : Bool
deriving DecidableEq, Repr

/-- The loop's state machine (R19); `faulted` is the stop of the fatal ALU error. -/
inductive Status where
  | ready
  | running
  | halted
  | faulted
deriving DecidableEq, Repr

/-- The error events of the CORE (spec/60_exceptions.md R121). -/
inductive Event where
  /-- Lenient: an access outside 0 to 255, or a stack pointer at its limit (R122). -/
  | outOfBounds (addr : Int)
  /-- Lenient: a core or flow selector with no table entry (R77). -/
  | unknownOpcode (ir : Byte)
  /-- Lenient: an operand byte above 7 used as a register (R124). -/
  | badRegister (b : Byte)
  /-- Fatal: an ALU selector other than ADD, MUL, CMP (R123). -/
  | unsupportedALUOperation (ir : Byte)
deriving DecidableEq, Repr

/-- The memory array as plain data (R30): the cells that do not hold 0, at strictly rising addresses; a cell not listed
holds 0, as the spec says of reset memory (R23, R30). -/
abbrev Memory := List Host.Cell

/-- Everything that persists from one cycle to the next (R10). -/
structure State where
  /-- `x[0]` to `x[7]` (R11); `x[7]` is also `SP` (R12). -/
  regs : Vector Byte 8
  /-- The 9-bit program counter (R14). -/
  pc : PcWord
  /-- The flags register (R16). -/
  flags : Flags
  /-- The loop's state (R19). -/
  status : Status
  /-- `M[0]` to `M[255]` (R30). -/
  mem : Memory
  /-- `OUT`: the bytes PRN has emitted, oldest first (R20). -/
  out : List Byte
  /-- `ERR`: the error events reported, oldest first (R21). -/
  err : List Event
deriving DecidableEq, Repr

/-- The machine right after reset (R23, R140). Registers 0 to 6, OUT and ERR: the spec's own decision D16 (log entry 3). -/
def State.reset : State where
  regs := #v[0, 0, 0, 0, 0, 0, 0, Config.spReset]
  pc := Config.pcReset
  flags := ⟨false, false, false⟩
  status := .ready
  mem := []
  out := []
  err := []

/-- The reasons a step of the model can stop with a fault: NONE. The spec gives every state of the machine a next state:
the lenient errors let the loop go on (R122, R124, R77), and the fatal one is a state of the machine, `Status.faulted`
(R123). So nobody raises a fault, and an instruction can be neither safe nor unsafe by one. -/
inductive Fault where
deriving DecidableEq, Repr

/-- The reasons a step of the model can be refused. -/
inductive Refusal where
  /-- Raised only by an arm of `exec` whose instruction has no meaning yet; safe (nothing is claimed of it). Every
  instruction has its meaning, so no arm raises it. -/
  | notModelled (mnemonic : String)
deriving DecidableEq, Repr

end Sys2Proof.Machine
end

