-- ==== Sys2Proof/Machine/Ops.lean ====
section
/-!
DEFINITION. Machine/Ops.lean: the named operations over memory, registers, program counter and the two output streams
(spec/00_scope.md R6), fetch (spec/40_fetch_decode_loop.md R71) and what an error does (spec/60_exceptions.md R120 to
R123): the one place where reporting, squashing and the fatal error are written.
-/

namespace Sys2Proof.Machine

open Sys2Proof

/-- What a step, and the meaning of an instruction, answers. -/
abbrev Outcome := Host.Outcome State Fault Refusal

/-! ### The memory array -/

/-- The content of cell `a`: the listed byte, and 0 where none is listed (R23, R30). -/
def Memory.read : Memory → Nat → Byte
  | [], _ => 0#8
  | (k, v) :: m, a => if k = a then v else Memory.read m a

/-- The array with cell `a` no longer listed. -/
def Memory.erase (m : Memory) (a : Nat) : Memory := m.filter (fun c => c.1 != a)

/-- The array with the cell `(a, v)` put before the first higher address. -/
def Memory.insertCell : Memory → Nat → Byte → Memory
  | [], a, v => [(a, v)]
  | (k, w) :: m, a, v => if a < k then (a, v) :: (k, w) :: m else (k, w) :: Memory.insertCell m a v

/-- `M[a] <- v` on the array, keeping the canonical form: a cell that holds 0 is not listed. -/
def Memory.write (m : Memory) (a : Nat) (v : Byte) : Memory :=
  if v = 0#8 then m.erase a else (m.erase a).insertCell a v

/-- The canonical form: addresses strictly rising, each below 256, no listed cell holding 0. -/
abbrev Memory.wf (m : Memory) : Prop :=
  m.Pairwise (fun c d => c.1 < d.1) ∧ ∀ c ∈ m, c.1 < Config.memSize ∧ c.2 ≠ 0#8

/-! ### Errors: the one place where they act on the state -/

/-- `report`: a lenient error appends its event to ERR and changes nothing else (R6, R21, R120). -/
def State.report (e : Event) (s : State) : State := { s with err := s.err ++ [e] }

/-- `raise UnsupportedALUOperation(ir)`: the fatal error appends its event and ends the run in `Faulted`; nothing else
changes and the loop's advance is not performed (R123). -/
def State.raise (ir : Byte) (s : State) : State :=
  { s.report (.unsupportedALUOperation ir) with status := .faulted }

/-- `squash`: the instruction has no effect of its own (R80); `report` is the event of the check that failed, none where
fetch has reported it already (R79). What `pc` then does is the caller's (R76, R80). -/
def State.squash (report : Option Event) (s : State) : State :=
  match report with
  | some e => s.report e
  | none => s

/-- The numeric code of an error event (R121; the codes are the spec's own, decision D19, log entry 11). -/
def Event.code : Event → Nat
  | .outOfBounds _ => 1
  | .unknownOpcode _ => 2
  | .badRegister _ => 3
  | .unsupportedALUOperation _ => 4

/-! ### The access surface -/

/-- The range check of every access: the address is an integer, never reduced modulo 256 (R32). -/
def inRange (addr : Int) : Bool := decide (0 ≤ addr) && decide (addr < Config.memSize)

/-- `MemRead(addr, 1)` (R33). -/
def memRead (addr : Int) (s : State) : Latch × State :=
  if inRange addr then (.byte (s.mem.read addr.toNat), s) else (.oob, s.report (.outOfBounds addr))

/-- `MemWrite(addr, 1, v)` (R34). -/
def memWrite (addr : Int) (v : Byte) (s : State) : State :=
  if inRange addr then { s with mem := s.mem.write addr.toNat v } else s.report (.outOfBounds addr)

/-- The byte at an 8-bit address: `byte(MemRead(a, 1))` for an `a` that is never out of bounds (R94, R111). -/
def State.load (s : State) (a : Byte) : Byte := s.mem.read a.toNat

/-! ### Registers, flags, program counter, output -/

/-- `x[r]` (R6, R11). -/
def State.getReg (s : State) (r : RegIdx) : Byte := s.regs[r.val]

/-- `x[r] <- v` (R6, R11). No register is hard-wired. -/
def State.setReg (s : State) (r : RegIdx) (v : Byte) : State := { s with regs := s.regs.set r.val v }

/-- `SP`, the second name of `x[7]` (R12). -/
def State.sp (s : State) : Byte := s.getReg Config.spIndex

/-- `SP <- v`: a write of `x[7]` (R12). -/
def State.setSp (s : State) (v : Byte) : State := s.setReg Config.spIndex v

/-- `pc <- t` (R6). -/
def State.setPc (s : State) (t : PcWord) : State := { s with pc := t }

/-- `FL <- (l, g, e)`: all three at once (R6, R16). -/
def State.setFlags (s : State) (f : Flags) : State := { s with flags := f }

/-- `status <- st` (R19). -/
def State.setStatus (s : State) (st : Status) : State := { s with status := st }

/-- `emit(v)`: append `v` to OUT (R6, R20). -/
def State.emit (s : State) (v : Byte) : State := { s with out := s.out ++ [v] }

/-- `zext9(v)`: bit 8 is zero (R6, R116). -/
def zext9 (v : Byte) : PcWord := v.setWidth 9

/-- `pc + 1 + cnt` on the 9-bit counter; exact for every `pc` at which an opcode can be fetched (R14, R76; log entry 5). -/
def nextPc (pc : PcWord) (cnt : BitVec 2) : PcWord := pc + 1#9 + cnt.setWidth 9

/-- The advance of `pc` past an instruction: the loop's for a non-flow opcode (R76), the flow unit's own for a conditional
jump that is not taken (R113, R114). -/
def advance (cnt : BitVec 2) (s : State) : State := s.setPc (nextPc s.pc cnt)

/-- `pc <- zext9(x[r])` (R112). -/
def jumpTo (r : RegIdx) (s : State) : State := s.setPc (zext9 (s.getReg r))

/-- The return address CALL pushes: the low 8 bits of `pc + 2` (R110; the narrowing is decision D14, log entry 9). -/
def returnAddress (pc : PcWord) : Byte := (pc + 2#9).setWidth 8

/-! ### Fetch -/

/-- What fetch leaves: IR and the two operand latches, which live within one cycle only (R18), and the state after it. -/
structure Fetched where
  ir : Latch
  opa : Latch
  opb : Latch
  after : State
deriving DecidableEq, Repr

/-- Fetch: three reads in every cycle, at `pc`, `pc + 1` and `pc + 2`, in that order, each reporting its own
`OutOfBounds` (R71). -/
def fetch (s : State) : Fetched :=
  let pc : Int := (s.pc.toNat : Int)
  let r0 := memRead pc s
  let r1 := memRead (pc + 1) r0.2
  let r2 := memRead (pc + 2) r1.2
  { ir := r0.1, opa := r1.1, opb := r2.1, after := r2.2 }

end Sys2Proof.Machine
end

