-- ==== Sys2Proof/Machine/Flags.lean ====
section
/-!
DEFINITION. Machine/Flags.lean: the one flag computation of the hardware, CMP's (spec/42_alu.md R103), and the packing of
the flags into a byte (spec/10_state.md R17).
-/

namespace Sys2Proof.Machine

open Sys2Proof

/-- The flags of an unsigned comparison of `x` with `y`: exactly one of E, L, G (R103). -/
def compareFlags (x y : Byte) : Flags :=
  if x = y then ⟨false, false, true⟩
  else if x.toNat < y.toNat then ⟨true, false, false⟩
  else ⟨false, true, false⟩

/-- The flags as `0b00000LGE`, for an interface that wants one byte (R17, from general knowledge; no instruction and no
trace shows it; log entry 19). -/
def Flags.pack (f : Flags) : Byte :=
  0#5 ++ BitVec.ofBool f.l ++ BitVec.ofBool f.g ++ BitVec.ofBool f.e

/-- At most one flag is set (R16, R24). -/
def Flags.atMostOne (f : Flags) : Bool := !(f.l && f.g) && !(f.l && f.e) && !(f.g && f.e)

/-- Exactly one flag is set (R16, R24). -/
def Flags.exactlyOne (f : Flags) : Bool := f.atMostOne && (f.l || f.g || f.e)

end Sys2Proof.Machine
end

