-- ==== Sys2Proof/Machine/Operands.lean ====
section
/-!
DEFINITION. Machine/Operands.lean: operand validation (spec/40_fetch_decode_loop.md R78, R79), the checks of each operand
form in their fixed order, the stack limits, and how a failing check squashes the instruction (R80).
-/

namespace Sys2Proof.Machine

open Sys2Proof

/-- The outcome of a check: the checked value, or the squash with the event to report (none where fetch has reported). -/
inductive Checked (α : Type) where
  | ok (a : α)
  | squashed (report : Option Event)
deriving DecidableEq, Repr

/-- The next check runs only if this one passed (R78: the first check that fails squashes, no later check is made). -/
def Checked.bind {α β : Type} (c : Checked α) (k : α → Checked β) : Checked β :=
  match c with
  | .ok a => k a
  | .squashed e => .squashed e

/-- Whether every check passed. -/
def Checked.passed {α : Type} (c : Checked α) : Bool :=
  match c with
  | .ok _ => true
  | .squashed _ => false

/-- The effect `k` if the checks passed; else the squash: all or nothing (R80, R128). -/
def Checked.orSquash {α : Type} (c : Checked α) (s : State) (k : α → State) : State :=
  match c with
  | .ok a => k a
  | .squashed e => s.squash e

/-- `reg(op)`: a register operand is the whole byte, legal when at most 7 (R53, R79). -/
def reg (op : Latch) : Checked RegIdx :=
  match op with
  | .oob => .squashed none
  | .byte b => if h : b.toNat < Config.nRegs then .ok ⟨b.toNat, h⟩ else .squashed (some (.badRegister b))

/-- `imm(op)`: an immediate is the whole byte (R53, R79). -/
def imm (op : Latch) : Checked Byte :=
  match op with
  | .oob => .squashed none
  | .byte b => .ok b

/-- The operands of format RI: `opa` before `opb` (R50, R78). -/
def regImm (opa opb : Latch) : Checked (RegIdx × Byte) :=
  (reg opa).bind fun r => (imm opb).bind fun v => .ok (r, v)

/-- The operands of format RR: `opa` before `opb` (R50, R78, R100). -/
def regReg (opa opb : Latch) : Checked (RegIdx × RegIdx) :=
  (reg opa).bind fun a => (reg opb).bind fun b => .ok (a, b)

/-- The stack pointer after a push: the decrement is checked on the value before it is written and does not wrap (R93,
R105, C3). -/
def decSp (sp : Byte) : Checked Byte :=
  if sp = 0#8 then .squashed (some (.outOfBounds (-1))) else .ok (sp - 1#8)

/-- The stack pointer after a pop that starts from `base`: checked, no wrap (R94, R105, C3). -/
def incSp (base : Byte) : Checked Byte :=
  if base = 255#8 then .squashed (some (.outOfBounds 256)) else .ok (base + 1#8)

/-- The checks of PUSH and CALL: the operand, then the stack limit; the register named and the new stack pointer
(R78, R93, R110). -/
def pushOperands (opa : Latch) (s : State) : Checked (RegIdx × Byte) :=
  (reg opa).bind fun r => (decSp s.sp).bind fun n => .ok (r, n)

/-- The checks of POP: the operand, then the stack limit, which starts from the loaded value where the register named is
the stack pointer itself (R94; decision D15, log entry 9). The register, the loaded byte and the new stack pointer. -/
def popOperands (opa : Latch) (s : State) : Checked (RegIdx × Byte × Byte) :=
  (reg opa).bind fun r =>
    let v := s.load s.sp
    (incSp (if r = Config.spIndex then v else s.sp)).bind fun n => .ok (r, v, n)

/-- The operand latch that names register `r`: the byte `r` (R53). -/
def regLatch (r : RegIdx) : Latch := .byte (BitVec.ofNat 8 r.val)

end Sys2Proof.Machine
end

