-- ==== Sys2Proof/Machine/Alu.lean ====
section
/-!
DEFINITION. Machine/Alu.lean: the Arithmetic/Comparison unit (spec/42_alu.md): ADD, MUL, CMP, and the ALU class's other
selectors, which are the fatal error (R104). All values are unsigned 8-bit, arithmetic modulo 256 (R100, R105).
-/

namespace Sys2Proof.Machine

open Sys2Proof

/-- ADD a, b (R101): the exact sum, reduced modulo 256; no flag. -/
def execAdd (cnt : BitVec 2) (opa opb : Latch) (s : State) : Outcome :=
  .next (advance cnt ((regReg opa opb).orSquash s fun p =>
    s.setReg p.1 (BitVec.ofNat 8 ((s.getReg p.1).toNat + (s.getReg p.2).toNat))))

/-- MUL a, b (R102): the exact product, reduced modulo 256; no flag. -/
def execMul (cnt : BitVec 2) (opa opb : Latch) (s : State) : Outcome :=
  .next (advance cnt ((regReg opa opb).orSquash s fun p =>
    s.setReg p.1 (BitVec.ofNat 8 ((s.getReg p.1).toNat * (s.getReg p.2).toNat))))

/-- CMP a, b (R103): the only writer of the flags, all three at once. -/
def execCmp (cnt : BitVec 2) (opa opb : Latch) (s : State) : Outcome :=
  .next (advance cnt ((regReg opa opb).orSquash s fun p =>
    s.setFlags (compareFlags (s.getReg p.1) (s.getReg p.2))))

/-- ALU class, selector 001: the fatal error, before any operand is looked at; no advance (R104, R123). -/
def execUnsupportedAlu1 (cnt : BitVec 2) (b3 : Bool) (s : State) : Outcome :=
  .next (s.raise (Instr.opcode (.unsupportedAlu1 cnt b3)))

/-- ALU class, selector 011 (R104, R123). -/
def execUnsupportedAlu3 (cnt : BitVec 2) (b3 : Bool) (s : State) : Outcome :=
  .next (s.raise (Instr.opcode (.unsupportedAlu3 cnt b3)))

/-- ALU class, selector 100 (R104, R123). -/
def execUnsupportedAlu4 (cnt : BitVec 2) (b3 : Bool) (s : State) : Outcome :=
  .next (s.raise (Instr.opcode (.unsupportedAlu4 cnt b3)))

/-- ALU class, selector 101 (R104, R123). -/
def execUnsupportedAlu5 (cnt : BitVec 2) (b3 : Bool) (s : State) : Outcome :=
  .next (s.raise (Instr.opcode (.unsupportedAlu5 cnt b3)))

/-- ALU class, selector 110 (R104, R123). -/
def execUnsupportedAlu6 (cnt : BitVec 2) (b3 : Bool) (s : State) : Outcome :=
  .next (s.raise (Instr.opcode (.unsupportedAlu6 cnt b3)))

end Sys2Proof.Machine
end

