-- ==== Sys2Proof/Machine/CoreControl.lean ====
section
/-!
DEFINITION. Machine/CoreControl.lean: the Core Control unit (spec/41_core_control.md): HLT, LDI, PRN, PUSH, POP, and the
core class's selectors with no entry (spec/40_fetch_decode_loop.md R77). After each of them the loop advances `pc`
(R76), whether the instruction executed or was squashed (R80).
-/

namespace Sys2Proof.Machine

open Sys2Proof

/-- HLT (R90): the halting cycle finishes normally, its advance included (R81). -/
def execHlt (cnt : BitVec 2) (s : State) : Outcome :=
  .next (advance cnt (s.setStatus .halted))

/-- LDI r, i (R91). -/
def execLdi (cnt : BitVec 2) (opa opb : Latch) (s : State) : Outcome :=
  .next (advance cnt ((regImm opa opb).orSquash s fun p => s.setReg p.1 p.2))

/-- PRN r (R92). -/
def execPrn (cnt : BitVec 2) (opa : Latch) (s : State) : Outcome :=
  .next (advance cnt ((reg opa).orSquash s fun r => s.emit (s.getReg r)))

/-- The push of PUSH: the decrement, then the store of `x[r]`, read after the decrement (R93). -/
def pushReg (r : RegIdx) (newSp : Byte) (s : State) : State :=
  let s1 := s.setSp newSp
  memWrite newSp.toNat (s1.getReg r) s1

/-- PUSH r (R93). -/
def execPush (cnt : BitVec 2) (opa : Latch) (s : State) : Outcome :=
  .next (advance cnt ((pushOperands opa s).orSquash s fun p => pushReg p.1 p.2 s))

/-- POP r (R94): the load is written first, then the stack pointer. -/
def execPop (cnt : BitVec 2) (opa : Latch) (s : State) : Outcome :=
  .next (advance cnt ((popOperands opa s).orSquash s fun p => (s.setReg p.1 p.2.1).setSp p.2.2))

/-- A miss in the core table: `UnknownOpcode` is reported, and the loop's advance follows (R77, R59). -/
def coreMiss (cnt : BitVec 2) (ir : Byte) (s : State) : State :=
  advance cnt (s.report (.unknownOpcode ir))

/-- Core class, selector 000 (R77). -/
def execUnknownCore0 (cnt : BitVec 2) (b3 : Bool) (s : State) : Outcome :=
  .next (coreMiss cnt (Instr.opcode (.unknownCore0 cnt b3)) s)

/-- Core class, selector 011 (R77). -/
def execUnknownCore3 (cnt : BitVec 2) (b3 : Bool) (s : State) : Outcome :=
  .next (coreMiss cnt (Instr.opcode (.unknownCore3 cnt b3)) s)

/-- Core class, selector 100 (R77). -/
def execUnknownCore4 (cnt : BitVec 2) (b3 : Bool) (s : State) : Outcome :=
  .next (coreMiss cnt (Instr.opcode (.unknownCore4 cnt b3)) s)

end Sys2Proof.Machine
end

