-- ==== Sys2Proof/Machine/FlowControl.lean ====
section
/-!
DEFINITION. Machine/FlowControl.lean: the Flow Control unit (spec/43_flow_control.md): CALL, RET, JMP, JEQ, JNE, and the
flow class's selectors with no entry (spec/40_fetch_decode_loop.md R77). The unit alone moves `pc`: the loop adds nothing
afterwards, so a squashed flow instruction and a miss leave `pc` where it was (R77, R80).
-/

namespace Sys2Proof.Machine

open Sys2Proof

/-- The call: the decrement, the store of the return address, then the jump to `x[r]`, read after the push (R110). -/
def callReg (r : RegIdx) (newSp : Byte) (s : State) : State :=
  jumpTo r (memWrite newSp.toNat (returnAddress s.pc) (s.setSp newSp))

/-- CALL r (R110): the return address is `pc + 2` whatever `cnt` is. -/
def execCall (opa : Latch) (s : State) : Outcome :=
  .next ((pushOperands opa s).orSquash s fun p => callReg p.1 p.2 s)

/-- RET (R111). -/
def execRet (s : State) : Outcome :=
  .next ((incSp s.sp).orSquash s fun n => (s.setPc (zext9 (s.load s.sp))).setSp n)

/-- The jump of JMP and of a taken JEQ or JNE (R112): a pure assignment of `pc` (C7). -/
def jump (opa : Latch) (s : State) : State := (reg opa).orSquash s fun r => jumpTo r s

/-- JMP r (R112). -/
def execJmp (opa : Latch) (s : State) : Outcome := .next (jump opa s)

/-- JEQ r (R113): not taken, the operand is neither validated nor used and the unit makes the advance itself. -/
def execJeq (cnt : BitVec 2) (opa : Latch) (s : State) : Outcome :=
  .next (if s.flags.e then jump opa s else advance cnt s)

/-- JNE r (R114). -/
def execJne (cnt : BitVec 2) (opa : Latch) (s : State) : Outcome :=
  .next (if s.flags.e then advance cnt s else jump opa s)

/-- Flow class, selector 010: reported, `pc` unchanged (R77). -/
def execUnknownFlow2 (cnt : BitVec 2) (b5 b3 : Bool) (s : State) : Outcome :=
  .next (s.report (.unknownOpcode (Instr.opcode (.unknownFlow2 cnt b5 b3))))

/-- Flow class, selector 011 (R77). -/
def execUnknownFlow3 (cnt : BitVec 2) (b5 b3 : Bool) (s : State) : Outcome :=
  .next (s.report (.unknownOpcode (Instr.opcode (.unknownFlow3 cnt b5 b3))))

/-- Flow class, selector 111 (R77). -/
def execUnknownFlow7 (cnt : BitVec 2) (b5 b3 : Bool) (s : State) : Outcome :=
  .next (s.report (.unknownOpcode (Instr.opcode (.unknownFlow7 cnt b5 b3))))

end Sys2Proof.Machine
end

