-- ==== Sys2Proof/Machine/Dispatch.lean ====
section
/-!
DEFINITION. Machine/Dispatch.lean: one arm per constructor of Instr (spec/40_fetch_decode_loop.md R74, R75).
-/

namespace Sys2Proof.Machine

open Sys2Proof

def exec (i : Instr) (s : State) : Host.Outcome State Fault Refusal :=
  match i with
  -- Core Control (41_core_control.md)
  | .hlt cnt _ => Sys2Proof.Machine.execHlt cnt s
  | .ldi cnt _ opa opb => Sys2Proof.Machine.execLdi cnt opa opb s
  | .prn cnt _ opa => Sys2Proof.Machine.execPrn cnt opa s
  | .push cnt _ opa => Sys2Proof.Machine.execPush cnt opa s
  | .pop cnt _ opa => Sys2Proof.Machine.execPop cnt opa s
  -- ALU (42_alu.md)
  | .add cnt _ opa opb => Sys2Proof.Machine.execAdd cnt opa opb s
  | .mul cnt _ opa opb => Sys2Proof.Machine.execMul cnt opa opb s
  | .cmp cnt _ opa opb => Sys2Proof.Machine.execCmp cnt opa opb s
  -- Flow Control (43_flow_control.md)
  | .call _ _ _ opa => Sys2Proof.Machine.execCall opa s
  | .ret _ _ _ => Sys2Proof.Machine.execRet s
  | .jmp _ _ _ opa => Sys2Proof.Machine.execJmp opa s
  | .jeq cnt _ _ opa => Sys2Proof.Machine.execJeq cnt opa s
  | .jne cnt _ _ opa => Sys2Proof.Machine.execJne cnt opa s
  -- selectors with no table entry (40_fetch_decode_loop.md R77, 42_alu.md R104)
  | .unknownCore0 cnt b3 => Sys2Proof.Machine.execUnknownCore0 cnt b3 s
  | .unknownCore3 cnt b3 => Sys2Proof.Machine.execUnknownCore3 cnt b3 s
  | .unknownCore4 cnt b3 => Sys2Proof.Machine.execUnknownCore4 cnt b3 s
  | .unsupportedAlu1 cnt b3 => Sys2Proof.Machine.execUnsupportedAlu1 cnt b3 s
  | .unsupportedAlu3 cnt b3 => Sys2Proof.Machine.execUnsupportedAlu3 cnt b3 s
  | .unsupportedAlu4 cnt b3 => Sys2Proof.Machine.execUnsupportedAlu4 cnt b3 s
  | .unsupportedAlu5 cnt b3 => Sys2Proof.Machine.execUnsupportedAlu5 cnt b3 s
  | .unsupportedAlu6 cnt b3 => Sys2Proof.Machine.execUnsupportedAlu6 cnt b3 s
  | .unknownFlow2 cnt b5 b3 => Sys2Proof.Machine.execUnknownFlow2 cnt b5 b3 s
  | .unknownFlow3 cnt b5 b3 => Sys2Proof.Machine.execUnknownFlow3 cnt b5 b3 s
  | .unknownFlow7 cnt b5 b3 => Sys2Proof.Machine.execUnknownFlow7 cnt b5 b3 s

end Sys2Proof.Machine
end

