-- ==== Sys2Proof/Machine/Cycle.lean ====
section
/-!
DEFINITION. Machine/Cycle.lean: one cycle of the loop (spec/40_fetch_decode_loop.md R70), the end of a run (R82), the
diagnostic trace tap (spec/60_exceptions.md R131), and the host's transactions (spec/70_reset_and_hazards.md R142).
-/

namespace Sys2Proof.Machine

open Sys2Proof

/-- One cycle (R70): fetch; where the opcode read is out of bounds, nothing more (R72); else decode, dispatch and the
instruction's rule, the loop's advance among it (R76). -/
def cycle (s : State) : Outcome :=
  let f := fetch s
  match f.ir with
  | .oob => .next f.after
  | .byte ir => exec (decode ir f.opa f.opb) f.after

/-- While `status = Running` the machine makes a cycle; in any other status it does nothing (R70; log entry 2). -/
def loopStep (s : State) : Outcome :=
  match s.status with
  | .running => cycle s
  | .ready => .next s
  | .halted => .next s
  | .faulted => .next s

/-! ### The host's transactions (R142) -/

/-- `reset`, at any time: machine construction again (R140). -/
def hostReset (_ : State) : State := State.reset

/-- `write(address, byte)`: `MemWrite` in `Ready`, ignored otherwise (R142; decision D20, log entry 13). -/
def hostWrite (addr : Int) (v : Byte) (s : State) : State :=
  match s.status with
  | .ready => memWrite addr v s
  | .running => s
  | .halted => s
  | .faulted => s

/-- `read(address)`: the byte, or the error; no state change (R142, in Ready; R153, once the run has ended). DESIGN CHOICE
(log entry 23): while Running the spec allows the trace tap only; the model answers the cell in every status. -/
def hostRead (addr : Int) (s : State) : Latch := (memRead addr s).1

/-- `run`: Ready to Running, nothing else changes; ignored in any other status (R144; decision D20, log entry 13). -/
def hostRun (s : State) : State :=
  match s.status with
  | .ready => s.setStatus .running
  | .running => s
  | .halted => s
  | .faulted => s

/-- The transactions that can change the state (R142). -/
inductive HostAction where
  | reset
  | write (addr : Int) (v : Byte)
  | run
deriving DecidableEq, Repr

/-- What a transaction does to the state. -/
def hostAct (a : HostAction) (s : State) : State :=
  match a with
  | .reset => hostReset s
  | .write addr v => hostWrite addr v s
  | .run => hostRun s

/-- The diagnostic trace's sample, taken at the start of a cycle: `pc`, the three bytes there, the eight registers (R131). -/
structure TraceSample where
  pc : PcWord
  m0 : Latch
  m1 : Latch
  m2 : Latch
  regs : Vector Byte 8
deriving DecidableEq, Repr

/-- The trace tap: a function of the state that changes nothing and adds nothing to ERR (R131). -/
def traceTap (s : State) : TraceSample :=
  let pc : Int := (s.pc.toNat : Int)
  { pc := s.pc, m0 := hostRead pc s, m1 := hostRead (pc + 1) s, m2 := hostRead (pc + 2) s, regs := s.regs }

/-- The loader's writes: byte k of the list to cell `addr + k`, one transaction each (R62, R143). -/
def hostLoad (addr : Int) (image : List Byte) (s : State) : State :=
  match image with
  | [] => s
  | b :: rest => hostLoad (addr + 1) rest (hostWrite addr b s)

/-! ### A word placed for the host's questions -/

/-- The bytes stored upward from cell `a`. -/
def placeBytes (a : Nat) (bytes : List Byte) (m : Memory) : Memory :=
  match bytes with
  | [] => m
  | b :: rest => placeBytes (a + 1) rest (m.write a b)

/-- The state that fetches the table word next: its bytes stored at `pc` (at 0 where three bytes do not fit at `pc`), and
`status = Running`, as after the loader's writes and `run` (R143, R144; log entries 1 and 15). -/
def placeWord (s : State) (nbits w : Nat) : State :=
  let pc : PcWord := if s.pc.toNat + Config.maxOperands < Config.memSize then s.pc else Config.pcReset
  { s with pc := pc, status := .running, mem := placeBytes pc.toNat (tableBytes nbits w) s.mem }

end Sys2Proof.Machine
end

