-- ==== Sys2Proof/Machine/Step.lean ====
section
/-!
DEFINITION. Machine/Step.lean: one step of the machine. It only calls Machine/Cycle.lean.
-/

namespace Sys2Proof.Machine

/-- One step: a cycle while Running, nothing in any other status (spec/40_fetch_decode_loop.md R70). -/
def step (s : State) : Host.Outcome State Fault Refusal := loopStep s

/-- The state whose next step fetches and runs the instruction of the table word (log entries 1 and 15). -/
def State.withFetchWord (s : State) (nbits w : Nat) : State := placeWord s nbits w

end Sys2Proof.Machine
end

