-- ==== Sys2Proof/Machine/Loader.lean ====
section
/-!
DEFINITION. Machine/Loader.lean: the program image as text (spec/30_encoding.md R62, R63) and the loader's effect on the
machine (spec/60_exceptions.md R125, spec/70_reset_and_hazards.md R143). The loader is a collaborator outside the CORE
(spec/00_scope.md R3 a); the step does not use this file.
-/

namespace Sys2Proof.Machine

open Sys2Proof

/-- One line of an image: nothing, a byte, or an error (R62). -/
inductive ImageLine where
  | ignored
  | byte (b : Byte)
  | malformed
deriving DecidableEq, Repr

/-- One binary digit. -/
def digit (c : Char) : Option Bool :=
  if c = '0' then some false else if c = '1' then some true else none

/-- The value of `n` binary digits, the leftmost the most significant; what follows them is not looked at (R62, R63). -/
def digits (n : Nat) (line : List Char) (acc : Nat) : Option Nat :=
  match n, line with
  | 0, _ => some acc
  | _ + 1, [] => none
  | n + 1, c :: rest =>
    match digit c with
    | some b => digits n rest (2 * acc + b.toNat)
    | none => none

/-- A line: empty or beginning with `#` is ignored, else its first 8 characters are a byte (R62). -/
def parseLine (line : List Char) : ImageLine :=
  match line with
  | [] => .ignored
  | c :: rest =>
    if c = '#' then .ignored
    else
      match digits 8 (c :: rest) 0 with
      | some v => .byte (BitVec.ofNat 8 v)
      | none => .malformed

/-- The bytes of an image, none where a line is malformed (R62). -/
def parseImage (lines : List (List Char)) : Option (List Byte) :=
  match lines with
  | [] => some []
  | l :: rest =>
    match parseLine l, parseImage rest with
    | .ignored, r => r
    | .byte b, some bs => some (b :: bs)
    | .byte _, none => none
    | .malformed, _ => none

/-- What the loader answers; where the spec names no reply, log entry 21 says which one the model takes. -/
inductive LoadReply where
  | loaded
  | loadFailure
deriving DecidableEq, Repr

/-- Loading an image file, none where it is missing or unreadable: on a failure the machine is unmodified (R125); a
malformed line is a load-time error and is taken as a failure too (R62; log entry 16). DESIGN CHOICE (log entry 21): the
spec gives no reply for a readable image outside Ready, where every write is ignored (D20), nor for one longer than 256
bytes (D27); the model answers `loaded` in both cases, outside Ready with the state unchanged. -/
def loadImage (file : Option (List (List Char))) (s : State) : LoadReply × State :=
  match file with
  | none => (.loadFailure, s)
  | some lines =>
    match parseImage lines with
    | some image => (.loaded, hostLoad 0 image s)
    | none => (.loadFailure, s)

end Sys2Proof.Machine
end

