-- ==== Sys2Proof/Safety.lean ====
section
/-!
DEFINITION. Safety.lean: the terms in which claims speak of the machine: the invariant of spec/10_state.md R24, what fetch
reports, which instruction writes and stores where, whether a cycle executes an instruction, and the livelock conditions
of spec/40_fetch_decode_loop.md R83.
-/

namespace Sys2Proof.Machine

open Sys2Proof

/-- What holds of every reachable state: `pc` at most 259, at most one flag set, the memory in its canonical form (R24). -/
abbrev State.Inv (s : State) : Prop :=
  s.mem.wf ∧ s.pc.toNat ≤ 259 ∧ s.flags.atMostOne = true

/-- The transitions of `status` a cycle can make (R19). -/
def Status.mayBecome (a b : Status) : Bool :=
  match a with
  | .running => b == .running || b == .halted || b == .faulted
  | .ready => b == .ready
  | .halted => b == .halted
  | .faulted => b == .faulted

/-- The end of a run (R82). -/
def State.ended (s : State) : Bool := s.status == .halted || s.status == .faulted

/-- What a read of the cell at address `a` gives (R33): the byte, or `oob` from 256 up. -/
def State.latch (s : State) (a : Nat) : Latch :=
  if a < Config.memSize then .byte (s.mem.read a) else .oob

/-- The reports of the three fetch reads, in address order (R71, R127). -/
def fetchReports (pc : PcWord) : List Event :=
  (if pc.toNat < 256 then [] else [.outOfBounds (pc.toNat : Int)]) ++
  (if pc.toNat + 1 < 256 then [] else [.outOfBounds ((pc.toNat : Int) + 1)]) ++
  (if pc.toNat + 2 < 256 then [] else [.outOfBounds ((pc.toNat : Int) + 2)])

/-- The state after fetch: only ERR has grown (R71). -/
def State.fetched (s : State) : State := { s with err := s.err ++ fetchReports s.pc }

/-- The bytes of memory fetch finds from `pc` upward: up to three, fewer at the end of memory. -/
def State.fetchBytes (s : State) : List Byte :=
  (s.latch s.pc.toNat).bytes ++ (s.latch (s.pc.toNat + 1)).bytes ++ (s.latch (s.pc.toNat + 2)).bytes

/-- Whether an operand byte names register `r` (R53). -/
def Latch.names (op : Latch) (r : RegIdx) : Bool := op == regLatch r

/-- The registers an instruction writes, from the table of 10_state.md R13. -/
def writesReg (i : Instr) (r : RegIdx) : Bool :=
  match i with
  | .ldi _ _ a _ => Latch.names a r
  | .add _ _ a _ => Latch.names a r
  | .mul _ _ a _ => Latch.names a r
  | .pop _ _ a => Latch.names a r || r == Config.spIndex
  | .push _ _ _ => r == Config.spIndex
  | .call _ _ _ _ => r == Config.spIndex
  | .ret _ _ _ => r == Config.spIndex
  | .hlt _ _ | .prn _ _ _ | .cmp _ _ _ _ => false
  | .jmp _ _ _ _ | .jeq _ _ _ _ | .jne _ _ _ _ => false
  | .unknownCore0 _ _ | .unknownCore3 _ _ | .unknownCore4 _ _ => false
  | .unsupportedAlu1 _ _ | .unsupportedAlu3 _ _ | .unsupportedAlu4 _ _ => false
  | .unsupportedAlu5 _ _ | .unsupportedAlu6 _ _ => false
  | .unknownFlow2 _ _ _ | .unknownFlow3 _ _ _ | .unknownFlow7 _ _ _ => false

/-- The operand of the two instructions that store, PUSH and CALL (R31, R35). -/
def storeOperand (i : Instr) : Option Latch :=
  match i with
  | .push _ _ a => some a
  | .call _ _ _ a => some a
  | .hlt _ _ | .ldi _ _ _ _ | .prn _ _ _ | .pop _ _ _ => none
  | .add _ _ _ _ | .mul _ _ _ _ | .cmp _ _ _ _ => none
  | .ret _ _ _ | .jmp _ _ _ _ | .jeq _ _ _ _ | .jne _ _ _ _ => none
  | .unknownCore0 _ _ | .unknownCore3 _ _ | .unknownCore4 _ _ => none
  | .unsupportedAlu1 _ _ | .unsupportedAlu3 _ _ | .unsupportedAlu4 _ _ => none
  | .unsupportedAlu5 _ _ | .unsupportedAlu6 _ _ => none
  | .unknownFlow2 _ _ _ | .unknownFlow3 _ _ _ | .unknownFlow7 _ _ _ => none

/-- The address an instruction stores to, none where it stores nothing or is squashed: the same `pushOperands` the meanings
of PUSH and CALL use. -/
def storeAddress (i : Instr) (s : State) : Option Nat :=
  match storeOperand i with
  | none => none
  | some opa =>
    match pushOperands opa s with
    | .ok p => some p.2.toNat
    | .squashed _ => none

/-- Whether an instruction executes: its selector has an entry and every check of R78 passes. -/
def executes (i : Instr) (s : State) : Bool :=
  match i with
  | .hlt _ _ => true
  | .ldi _ _ a b => (regImm a b).passed
  | .prn _ _ a => (reg a).passed
  | .push _ _ a => (pushOperands a s).passed
  | .pop _ _ a => (popOperands a s).passed
  | .add _ _ a b => (regReg a b).passed
  | .mul _ _ a b => (regReg a b).passed
  | .cmp _ _ a b => (regReg a b).passed
  | .call _ _ _ a => (pushOperands a s).passed
  | .ret _ _ _ => (incSp s.sp).passed
  | .jmp _ _ _ a => (reg a).passed
  | .jeq _ _ _ a => !s.flags.e || (reg a).passed
  | .jne _ _ _ a => s.flags.e || (reg a).passed
  | .unknownCore0 _ _ | .unknownCore3 _ _ | .unknownCore4 _ _ => false
  | .unsupportedAlu1 _ _ | .unsupportedAlu3 _ _ | .unsupportedAlu4 _ _ => false
  | .unsupportedAlu5 _ _ | .unsupportedAlu6 _ _ => false
  | .unknownFlow2 _ _ _ | .unknownFlow3 _ _ _ | .unknownFlow7 _ _ _ => false

/-- Whether the next cycle executes an instruction (R83): something is decoded, and it executes. -/
def cycleExecutes (s : State) : Bool :=
  match s.latch s.pc.toNat with
  | .oob => false
  | .byte ir => executes (decode ir (s.latch (s.pc.toNat + 1)) (s.latch (s.pc.toNat + 2))) s

/-- A livelock as R83 words it: no cycle executes an instruction, each reports the same events, at least one, and nothing
but ERR changes, for any number of cycles. -/
def State.Livelocked (s : State) : Prop :=
  cycleExecutes s = false ∧
  ∃ events : List Event, events ≠ [] ∧
    ∀ n : Nat, Host.Core.run core n s =
      .next { s with err := s.err ++ (List.replicate n events).flatten }

/-- The opcode bits that select in the flow class (R57: mask 0x17). -/
def flowBits (ir : Byte) : Byte := ir &&& 0x17

/-- The four conditions of R83, in the spec's own terms: `pc`, the byte there, the byte after it, `x[7]` and E. -/
def State.livelockCondition (s : State) : Bool :=
  let pc := s.pc.toNat
  let ir := s.mem.read pc
  let badOperand := decide (pc = 255) || decide (7 < (s.mem.read (pc + 1)).toNat)
  decide (256 ≤ pc) ||
  (flowBits ir == 0x12 || flowBits ir == 0x13 || flowBits ir == 0x17) ||
  ((flowBits ir == 0x10 || flowBits ir == 0x14 || (flowBits ir == 0x15 && s.flags.e) ||
    (flowBits ir == 0x16 && !s.flags.e)) && badOperand) ||
  (flowBits ir == 0x10 && s.sp == 0#8) ||
  (flowBits ir == 0x11 && s.sp == 255#8)

end Sys2Proof.Machine
end

