-- ==== Sys2Proof/Certificates/Slice0/Obligations.lean ====
section
/-!
DEFINITION. Certificates/Slice0/Obligations.lean: the statements for the provers. Each docstring names the part of spec/ it
formalises. Where a clause follows a decision of the spec's own (spec/92_eei_decisions.md D<n>), the docstring names it and
the log entry that records it.
-/

open Sys2Proof Sys2Proof.Machine

/-! ### Encoding -/

/-- R51: the fields of the opcode byte, as arithmetic on the byte, and the three opcodes the source prints. -/
def Obligations.OpcodeByteFields : Prop :=
  (∀ ir : Byte,
    (fieldsOf ir).cnt.toNat = ir.toNat / 64 ∧
    (fieldsOf ir).alu = decide (ir.toNat / 32 % 2 = 1) ∧
    (fieldsOf ir).setspc = decide (ir.toNat / 16 % 2 = 1) ∧
    (fieldsOf ir).sel.toNat = ir.toNat % 8) ∧
  fieldsOf 0b10000010 = ⟨2, false, false, false, 0b010⟩ ∧
  fieldsOf 0b01000111 = ⟨1, false, false, false, 0b111⟩ ∧
  fieldsOf 0b00000001 = ⟨0, false, false, false, 0b001⟩

/-- R54: bit 4 routes to Flow Control, else bit 5 to the ALU, else Core Control; 128, 64 and 64 bytes. -/
def Obligations.RoutingByBitFourThenFive : Prop :=
  (∀ (ir : Byte) (opa opb : Latch),
    (decode ir opa opb).unit =
      if ir.getLsbD 4 then .flowControl else if ir.getLsbD 5 then .alu else .coreControl) ∧
  ((List.range 256).filter fun n => (decode (BitVec.ofNat 8 n) .oob .oob).unit == .flowControl).length = 128 ∧
  ((List.range 256).filter fun n => (decode (BitVec.ofNat 8 n) .oob .oob).unit == .alu).length = 64 ∧
  ((List.range 256).filter fun n => (decode (BitVec.ofNat 8 n) .oob .oob).unit == .coreControl).length = 64

/-- Thirteen words written out from the encodings of 30_encoding.md (the canonical bytes, with operand bytes), one per
instruction. The ten selectors the source does not print are the spec's decision D9 (log entry 6). -/
def Obligations.CanonicalWordsDecode : Prop :=
  decodeBytes [0b00000001] = .ok (.hlt 0 false) ∧
  decodeBytes [0b10000010, 3, 200] = .ok (.ldi 2 false (.byte 3) (.byte 200)) ∧
  decodeBytes [0b01000111, 5] = .ok (.prn 1 false (.byte 5)) ∧
  decodeBytes [0b01000101, 6] = .ok (.push 1 false (.byte 6)) ∧
  decodeBytes [0b01000110, 7] = .ok (.pop 1 false (.byte 7)) ∧
  decodeBytes [0b10100000, 1, 2] = .ok (.add 2 false (.byte 1) (.byte 2)) ∧
  decodeBytes [0b10100010, 3, 4] = .ok (.mul 2 false (.byte 3) (.byte 4)) ∧
  decodeBytes [0b10100111, 5, 6] = .ok (.cmp 2 false (.byte 5) (.byte 6)) ∧
  decodeBytes [0b01010000, 1] = .ok (.call 1 false false (.byte 1)) ∧
  decodeBytes [0b00010001] = .ok (.ret 0 false false) ∧
  decodeBytes [0b01010100, 2] = .ok (.jmp 1 false false (.byte 2)) ∧
  decodeBytes [0b01010101, 3] = .ok (.jeq 1 false false (.byte 3)) ∧
  decodeBytes [0b01010110, 4] = .ok (.jne 1 false false (.byte 4))

/-- 30_encoding.md, the opcode map: a byte decodes to a canonical encoding exactly when it is one of the thirteen listed
(bit 3 clear and count fitting: decisions D7, D8, log entry 7; selectors D9, log entry 6). -/
def Obligations.ThirteenCanonicalBytes : Prop :=
  ∀ (ir : Byte) (opa opb : Latch),
    (decode ir opa opb).canonical = true ↔
      ir ∈ [(0x01 : Byte), 0x82, 0x47, 0x45, 0x46, 0xA0, 0xA2, 0xA7, 0x50, 0x11, 0x54, 0x55, 0x56]

/-- 30_encoding.md, alias encodings and the total decoder: every byte lies in the row of the opcode table that the decoder
gives it, and in no other. -/
def Obligations.EveryByteInExactlyOneRow : Prop :=
  (∀ (ir : Byte) (opa opb : Latch),
    ir &&& (decode ir opa opb).rowMask = (decode ir opa opb).rowMatch) ∧
  ∀ (ir : Byte) (i j : Instr),
    ir &&& i.rowMask = i.rowMatch → ir &&& j.rowMask = j.rowMatch → i.rowMatch = j.rowMatch

/-- 30_encoding.md, length determination: the length is the opcode byte's bits 7 to 6 plus one, whatever the instruction;
and the decoder refuses only the empty list of bytes. -/
def Obligations.LengthFromOpcodeAlone : Prop :=
  (∀ (ir : Byte) (opa opb : Latch), (decode ir opa opb).length = 1 + ir.toNat / 64) ∧
  ∀ bytes : List Byte, decodeBytes bytes = .error .noOpcode ↔ bytes = []

/-- The decoder reads back what the encoder wrote: every well-formed instruction, every operand byte, bytes past the end of
memory included; and where all its operands are bytes, whatever bytes follow it. -/
def Obligations.DecodeOfEncode : Prop :=
  (∀ i : Instr, i.WellFormed → decodeBytes (encode i) = .ok i) ∧
  ∀ (i : Instr) (tail : List Byte), i.complete = true → decodeBytes (encode i ++ tail) = .ok i

/-- The encoder gives back the bytes that were decoded, as far as the instruction uses them, and every decoded instruction is
well-formed. -/
def Obligations.EncodeOfDecode : Prop :=
  ∀ (bytes : List Byte) (i : Instr), decodeBytes bytes = .ok i → i.WellFormed ∧ ∃ tail, bytes = encode i ++ tail

/-- 30_encoding.md, alias encodings: two bytes of one row do the same, but for `pc`, and with equal counts `pc` too. The rows
are those of the thirteen instructions (a row with no entry reports the byte itself). Decisions D7, D8, log entry 7; the rows: D9, log entry 6. -/
def Obligations.AliasesDoTheSame : Prop :=
  ∀ (ir ir' : Byte) (opa opb : Latch) (s t t' : State),
    (decode ir opa opb).rowMatch = (decode ir' opa opb).rowMatch →
    (decode ir opa opb).formatCnt.isSome = true →
    exec (decode ir opa opb) s = .next t → exec (decode ir' opa opb) s = .next t' →
    { t with pc := 0 } = { t' with pc := 0 } ∧ (ir.toNat / 64 = ir'.toNat / 64 → t = t')

/-! ### What each instruction does, and where it completes -/

/-- 41_core_control.md, HLT; that it alone reaches Halted; and HLT at 255 (the two reports of the unused operand reads and their
order: decisions D19, D25, log entry 11). -/
def Obligations.HltHaltsAndAdvances : Prop :=
  (∀ (cnt : BitVec 2) (b3 : Bool) (s : State),
    exec (.hlt cnt b3) s = .next { s with status := .halted, pc := s.pc + 1#9 + cnt.setWidth 9 }) ∧
  (∀ s t : State, step s = .next t → t.status = .halted → s.status ≠ .halted →
    ∃ cnt b3, decodeBytes s.fetchBytes = .ok (.hlt cnt b3)) ∧
  ∀ s : State, s.status = .running → s.pc = 255 → s.mem.read 255 = 0x01 →
    step s = .next { s with status := .halted, pc := 256, err := s.err ++ [.outOfBounds 256, .outOfBounds 257] }

/-- 40_fetch_decode_loop.md, halting: the cycle that runs HLT sets `status` to Halted and finishes with its advance; after it no
number of further steps changes anything or reports an error, so nothing is fetched. That a further step answers the same
state (neither a fault nor a refusal) is the model's choice, log entry 2; that HLT advances by its count whatever it is:
decision D8, log entry 7. -/
def Obligations.HltCycleIsTheLast : Prop :=
  ∀ (s : State) (cnt : BitVec 2) (b3 : Bool),
    s.status = .running → decodeBytes s.fetchBytes = .ok (.hlt cnt b3) →
    ∃ t : State, step s = .next t ∧ t.status = .halted ∧ t.pc.toNat = s.pc.toNat + 1 + cnt.toNat ∧
      ∀ n : Nat, Host.Core.run core n t = .next t

/-- 41_core_control.md, LDI. The squashes follow decisions D3, D5, D6 (log entry 8). -/
def Obligations.LdiLoadsImmediate : Prop :=
  ∀ (cnt : BitVec 2) (b3 : Bool) (s : State),
    (∀ (r : RegIdx) (v : Byte),
      exec (.ldi cnt b3 (regLatch r) (.byte v)) s =
        .next { s with regs := s.regs.set r.val v, pc := s.pc + 1#9 + cnt.setWidth 9 }) ∧
    (∀ r : RegIdx,
      exec (.ldi cnt b3 (regLatch r) .oob) s = .next { s with pc := s.pc + 1#9 + cnt.setWidth 9 }) ∧
    (∀ (b : Byte) (opb : Latch), 8 ≤ b.toNat →
      exec (.ldi cnt b3 (.byte b) opb) s =
        .next { s with err := s.err ++ [.badRegister b], pc := s.pc + 1#9 + cnt.setWidth 9 }) ∧
    ∀ opb : Latch,
      exec (.ldi cnt b3 .oob opb) s = .next { s with pc := s.pc + 1#9 + cnt.setWidth 9 }

/-- 41_core_control.md, PRN: the 8-bit value goes to OUT (decision D23, log entry 17). The squashes follow decisions D3, D5,
D6 (log entry 8). -/
def Obligations.PrnEmitsRegister : Prop :=
  ∀ (cnt : BitVec 2) (b3 : Bool) (s : State),
    (∀ r : RegIdx,
      exec (.prn cnt b3 (regLatch r)) s =
        .next { s with out := s.out ++ [s.regs[r.val]], pc := s.pc + 1#9 + cnt.setWidth 9 }) ∧
    (∀ b : Byte, 8 ≤ b.toNat →
      exec (.prn cnt b3 (.byte b)) s =
        .next { s with err := s.err ++ [.badRegister b], pc := s.pc + 1#9 + cnt.setWidth 9 }) ∧
    exec (.prn cnt b3 .oob) s = .next { s with pc := s.pc + 1#9 + cnt.setWidth 9 }

/-- 41_core_control.md, PUSH: pre-decrement, the value read after it (PUSH R7 stores the decremented pointer, decision D15);
no wrap at 0 (decision D12; log entry 9). The squashes follow decisions D3, D5, D6 (log entry 8). -/
def Obligations.PushStoresBelowStackPointer : Prop :=
  ∀ (cnt : BitVec 2) (b3 : Bool) (s : State),
    (∀ r : RegIdx, s.sp ≠ 0 →
      exec (.push cnt b3 (regLatch r)) s =
        .next { s with
          regs := s.regs.set 7 (s.sp - 1),
          mem := s.mem.write (s.sp.toNat - 1) (if r = 7 then s.sp - 1 else s.regs[r.val]),
          pc := s.pc + 1#9 + cnt.setWidth 9 }) ∧
    (∀ r : RegIdx, s.sp = 0 →
      exec (.push cnt b3 (regLatch r)) s =
        .next { s with err := s.err ++ [.outOfBounds (-1)], pc := s.pc + 1#9 + cnt.setWidth 9 }) ∧
    (∀ b : Byte, 8 ≤ b.toNat →
      exec (.push cnt b3 (.byte b)) s =
        .next { s with err := s.err ++ [.badRegister b], pc := s.pc + 1#9 + cnt.setWidth 9 }) ∧
    exec (.push cnt b3 .oob) s = .next { s with pc := s.pc + 1#9 + cnt.setWidth 9 }

/-- 41_core_control.md, POP: post-increment; POP R7 ends with the loaded value plus one (decision D15); no wrap at 255
(decision D13; log entry 9). The squashes follow decisions D3, D5, D6 (log entry 8). -/
def Obligations.PopLoadsAtStackPointer : Prop :=
  ∀ (cnt : BitVec 2) (b3 : Bool) (s : State),
    (∀ r : RegIdx, r ≠ 7 → s.sp ≠ 255 →
      exec (.pop cnt b3 (regLatch r)) s =
        .next { s with
          regs := (s.regs.set r.val (s.mem.read s.sp.toNat)).set 7 (s.sp + 1),
          pc := s.pc + 1#9 + cnt.setWidth 9 }) ∧
    (∀ r : RegIdx, r ≠ 7 → s.sp = 255 →
      exec (.pop cnt b3 (regLatch r)) s =
        .next { s with err := s.err ++ [.outOfBounds 256], pc := s.pc + 1#9 + cnt.setWidth 9 }) ∧
    (s.mem.read s.sp.toNat ≠ 255 →
      exec (.pop cnt b3 (regLatch 7)) s =
        .next { s with
          regs := s.regs.set 7 (s.mem.read s.sp.toNat + 1), pc := s.pc + 1#9 + cnt.setWidth 9 }) ∧
    (s.mem.read s.sp.toNat = 255 →
      exec (.pop cnt b3 (regLatch 7)) s =
        .next { s with err := s.err ++ [.outOfBounds 256], pc := s.pc + 1#9 + cnt.setWidth 9 }) ∧
    (∀ b : Byte, 8 ≤ b.toNat →
      exec (.pop cnt b3 (.byte b)) s =
        .next { s with err := s.err ++ [.badRegister b], pc := s.pc + 1#9 + cnt.setWidth 9 }) ∧
    exec (.pop cnt b3 .oob) s = .next { s with pc := s.pc + 1#9 + cnt.setWidth 9 }

/-- 42_alu.md, ADD: the sum modulo 256, no flag. The squashes follow decisions D3, D5, D6 (log entry 8). -/
def Obligations.AddModulo256 : Prop :=
  ∀ (cnt : BitVec 2) (b3 : Bool) (s : State),
    (∀ a b : RegIdx, ∃ t : State,
      exec (.add cnt b3 (regLatch a) (regLatch b)) s = .next t ∧
      (t.regs[a.val]).toNat = ((s.regs[a.val]).toNat + (s.regs[b.val]).toNat) % 256 ∧
      t = { s with regs := s.regs.set a.val t.regs[a.val], pc := s.pc + 1#9 + cnt.setWidth 9 }) ∧
    (∀ (a : RegIdx) (b : Byte), 8 ≤ b.toNat →
      exec (.add cnt b3 (regLatch a) (.byte b)) s =
        .next { s with err := s.err ++ [.badRegister b], pc := s.pc + 1#9 + cnt.setWidth 9 }) ∧
    (∀ (b : Byte) (opb : Latch), 8 ≤ b.toNat →
      exec (.add cnt b3 (.byte b) opb) s =
        .next { s with err := s.err ++ [.badRegister b], pc := s.pc + 1#9 + cnt.setWidth 9 }) ∧
    (∀ a : RegIdx,
      exec (.add cnt b3 (regLatch a) .oob) s = .next { s with pc := s.pc + 1#9 + cnt.setWidth 9 }) ∧
    ∀ opb : Latch,
      exec (.add cnt b3 .oob opb) s = .next { s with pc := s.pc + 1#9 + cnt.setWidth 9 }

/-- 42_alu.md, MUL: the product modulo 256, no flag. The squashes follow decisions D3, D5, D6 (log entry 8). -/
def Obligations.MulModulo256 : Prop :=
  ∀ (cnt : BitVec 2) (b3 : Bool) (s : State),
    (∀ a b : RegIdx, ∃ t : State,
      exec (.mul cnt b3 (regLatch a) (regLatch b)) s = .next t ∧
      (t.regs[a.val]).toNat = ((s.regs[a.val]).toNat * (s.regs[b.val]).toNat) % 256 ∧
      t = { s with regs := s.regs.set a.val t.regs[a.val], pc := s.pc + 1#9 + cnt.setWidth 9 }) ∧
    (∀ (a : RegIdx) (b : Byte), 8 ≤ b.toNat →
      exec (.mul cnt b3 (regLatch a) (.byte b)) s =
        .next { s with err := s.err ++ [.badRegister b], pc := s.pc + 1#9 + cnt.setWidth 9 }) ∧
    (∀ (b : Byte) (opb : Latch), 8 ≤ b.toNat →
      exec (.mul cnt b3 (.byte b) opb) s =
        .next { s with err := s.err ++ [.badRegister b], pc := s.pc + 1#9 + cnt.setWidth 9 }) ∧
    (∀ a : RegIdx,
      exec (.mul cnt b3 (regLatch a) .oob) s = .next { s with pc := s.pc + 1#9 + cnt.setWidth 9 }) ∧
    ∀ opb : Latch,
      exec (.mul cnt b3 .oob opb) s = .next { s with pc := s.pc + 1#9 + cnt.setWidth 9 }

/-- 42_alu.md, CMP: all three flags at once, unsigned, whatever they were; registers unchanged. The squashes follow decisions
D3, D5, D6 (log entry 8). -/
def Obligations.CmpSetsOneFlag : Prop :=
  ∀ (cnt : BitVec 2) (b3 : Bool) (s : State),
    (∀ a b : RegIdx,
      exec (.cmp cnt b3 (regLatch a) (regLatch b)) s =
        .next { s with
          flags :=
            { l := decide ((s.regs[a.val]).toNat < (s.regs[b.val]).toNat)
              g := decide ((s.regs[b.val]).toNat < (s.regs[a.val]).toNat)
              e := decide ((s.regs[a.val]).toNat = (s.regs[b.val]).toNat) },
          pc := s.pc + 1#9 + cnt.setWidth 9 }) ∧
    (∀ (a : RegIdx) (b : Byte), 8 ≤ b.toNat →
      exec (.cmp cnt b3 (regLatch a) (.byte b)) s =
        .next { s with err := s.err ++ [.badRegister b], pc := s.pc + 1#9 + cnt.setWidth 9 }) ∧
    (∀ (b : Byte) (opb : Latch), 8 ≤ b.toNat →
      exec (.cmp cnt b3 (.byte b) opb) s =
        .next { s with err := s.err ++ [.badRegister b], pc := s.pc + 1#9 + cnt.setWidth 9 }) ∧
    (∀ a : RegIdx,
      exec (.cmp cnt b3 (regLatch a) .oob) s = .next { s with pc := s.pc + 1#9 + cnt.setWidth 9 }) ∧
    ∀ opb : Latch,
      exec (.cmp cnt b3 .oob opb) s = .next { s with pc := s.pc + 1#9 + cnt.setWidth 9 }

/-- 43_flow_control.md, CALL: the return address is the low 8 bits of `pc + 2` whatever the count (decision D14), the target
is read after the push (CALL R7 jumps to the decremented pointer, D15), no wrap at 0 (D12; log entry 9); a squash leaves
`pc` (decision D5, log entry 8). -/
def Obligations.CallPushesReturnAddress : Prop :=
  ∀ (cnt : BitVec 2) (b5 b3 : Bool) (s : State),
    (∀ r : RegIdx, s.sp ≠ 0 →
      exec (.call cnt b5 b3 (regLatch r)) s =
        .next { s with
          regs := s.regs.set 7 (s.sp - 1),
          mem := s.mem.write (s.sp.toNat - 1) (BitVec.ofNat 8 ((s.pc.toNat + 2) % 256)),
          pc := (if r = 7 then s.sp - 1 else s.regs[r.val]).setWidth 9 }) ∧
    (∀ r : RegIdx, s.sp = 0 →
      exec (.call cnt b5 b3 (regLatch r)) s = .next { s with err := s.err ++ [.outOfBounds (-1)] }) ∧
    (∀ b : Byte, 8 ≤ b.toNat →
      exec (.call cnt b5 b3 (.byte b)) s = .next { s with err := s.err ++ [.badRegister b] }) ∧
    exec (.call cnt b5 b3 .oob) s = .next s

/-- 43_flow_control.md, RET: `pc` from the stack, post-increment; at 255 squashed, no wrap (decision D13, log entry 9). -/
def Obligations.RetPopsIntoPc : Prop :=
  ∀ (cnt : BitVec 2) (b5 b3 : Bool) (s : State),
    (s.sp ≠ 255 →
      exec (.ret cnt b5 b3) s =
        .next { s with regs := s.regs.set 7 (s.sp + 1), pc := (s.mem.read s.sp.toNat).setWidth 9 }) ∧
    (s.sp = 255 →
      exec (.ret cnt b5 b3) s = .next { s with err := s.err ++ [.outOfBounds 256] })

/-- 43_flow_control.md, JMP: a pure assignment of `pc`; SP is not touched (90_conflicts.md C7). The squashes follow decisions
D3, D5, D6 (log entry 8). -/
def Obligations.JmpAssignsPcOnly : Prop :=
  ∀ (cnt : BitVec 2) (b5 b3 : Bool) (s : State),
    (∀ r : RegIdx,
      exec (.jmp cnt b5 b3 (regLatch r)) s = .next { s with pc := (s.regs[r.val]).setWidth 9 }) ∧
    (∀ b : Byte, 8 ≤ b.toNat →
      exec (.jmp cnt b5 b3 (.byte b)) s = .next { s with err := s.err ++ [.badRegister b] }) ∧
    exec (.jmp cnt b5 b3 .oob) s = .next s

/-- 43_flow_control.md, JEQ: with E set, as JMP; with E clear, `pc + 1 + cnt` whatever the operand is (decision D26, log
entry 8). -/
def Obligations.JeqJumpsOnEqual : Prop :=
  ∀ (cnt : BitVec 2) (b5 b3 : Bool) (opa : Latch) (s : State),
    (s.flags.e = true → exec (.jeq cnt b5 b3 opa) s = exec (.jmp cnt b5 b3 opa) s) ∧
    (∀ r : RegIdx, s.flags.e = true → opa = regLatch r →
      exec (.jeq cnt b5 b3 opa) s = .next { s with pc := (s.regs[r.val]).setWidth 9 }) ∧
    (s.flags.e = false →
      exec (.jeq cnt b5 b3 opa) s = .next { s with pc := s.pc + 1#9 + cnt.setWidth 9 })

/-- 43_flow_control.md, JNE: with E clear, as JMP; with E set, `pc + 1 + cnt` whatever the operand is (decision D26, log
entry 8). -/
def Obligations.JneJumpsOnNotEqual : Prop :=
  ∀ (cnt : BitVec 2) (b5 b3 : Bool) (opa : Latch) (s : State),
    (s.flags.e = false → exec (.jne cnt b5 b3 opa) s = exec (.jmp cnt b5 b3 opa) s) ∧
    (∀ r : RegIdx, s.flags.e = false → opa = regLatch r →
      exec (.jne cnt b5 b3 opa) s = .next { s with pc := (s.regs[r.val]).setWidth 9 }) ∧
    (s.flags.e = true →
      exec (.jne cnt b5 b3 opa) s = .next { s with pc := s.pc + 1#9 + cnt.setWidth 9 })

/-- 40_fetch_decode_loop.md, lookup miss, the core table: the opcode byte is reported and only the loop's advance follows. -/
def Obligations.CoreMissReportsAndAdvances : Prop :=
  ∀ (cnt : BitVec 2) (b3 : Bool) (s : State) (i : Instr),
    i = .unknownCore0 cnt b3 ∨ i = .unknownCore3 cnt b3 ∨ i = .unknownCore4 cnt b3 →
    exec i s =
      .next { s with err := s.err ++ [.unknownOpcode i.opcode], pc := s.pc + 1#9 + cnt.setWidth 9 }

/-- 42_alu.md, any other ALU selector, and 60_exceptions.md on the fatal error: the event, `Faulted`, nothing else, `pc`
unchanged (decision D10, log entry 10). -/
def Obligations.UnsupportedAluFaults : Prop :=
  ∀ (cnt : BitVec 2) (b3 : Bool) (s : State) (i : Instr),
    i = .unsupportedAlu1 cnt b3 ∨ i = .unsupportedAlu3 cnt b3 ∨ i = .unsupportedAlu4 cnt b3 ∨
      i = .unsupportedAlu5 cnt b3 ∨ i = .unsupportedAlu6 cnt b3 →
    exec i s = .next { s with err := s.err ++ [.unsupportedALUOperation i.opcode], status := .faulted }

/-- 40_fetch_decode_loop.md, lookup miss, the flow table: the opcode byte is reported, `pc` unchanged (decision D11, log
entry 10). -/
def Obligations.FlowMissReportsOnly : Prop :=
  ∀ (cnt : BitVec 2) (b5 b3 : Bool) (s : State) (i : Instr),
    i = .unknownFlow2 cnt b5 b3 ∨ i = .unknownFlow3 cnt b5 b3 ∨ i = .unknownFlow7 cnt b5 b3 →
    exec i s = .next { s with err := s.err ++ [.unknownOpcode i.opcode] }

/-! ### The cycle -/

/-- A step runs the decoded instruction: while Running, where the bytes at `pc` decode to `i`, the step is `exec i` on the
state after fetch's reports; the step adds nothing after it (the loop's advance is inside `exec`). -/
def Obligations.StepRunsDecodedInstruction : Prop :=
  ∀ (s : State) (i : Instr),
    s.status = .running → decodeBytes s.fetchBytes = .ok i →
    step s = exec i { s with err := s.err ++ fetchReports s.pc }

/-- 40_fetch_decode_loop.md, the cycle as pseudocode: the selected row of the opcode table, by mask and match on the byte at
`pc`, runs on the operand latches, in every running state whose `pc` is below 256. Selectors: decision D9 (log entry 6);
bit 3 and count unchecked: D7, D8 (log entry 7). -/
def Obligations.CycleFollowsOpcodeTable : Prop :=
  ∀ (s : State), s.status = .running → s.pc.toNat < 256 →
    let ir := s.mem.read s.pc.toNat
    let cnt : BitVec 2 := BitVec.ofNat 2 (ir.toNat / 64)
    let b5 := ir.getLsbD 5
    let b3 := ir.getLsbD 3
    let opa := s.latch (s.pc.toNat + 1)
    let opb := s.latch (s.pc.toNat + 2)
    let f := s.fetched
    (ir &&& 0x37 = 0x01 → step s = execHlt cnt f) ∧
    (ir &&& 0x37 = 0x02 → step s = execLdi cnt opa opb f) ∧
    (ir &&& 0x37 = 0x07 → step s = execPrn cnt opa f) ∧
    (ir &&& 0x37 = 0x05 → step s = execPush cnt opa f) ∧
    (ir &&& 0x37 = 0x06 → step s = execPop cnt opa f) ∧
    (ir &&& 0x37 = 0x20 → step s = execAdd cnt opa opb f) ∧
    (ir &&& 0x37 = 0x22 → step s = execMul cnt opa opb f) ∧
    (ir &&& 0x37 = 0x27 → step s = execCmp cnt opa opb f) ∧
    (ir &&& 0x17 = 0x10 → step s = execCall opa f) ∧
    (ir &&& 0x17 = 0x11 → step s = execRet f) ∧
    (ir &&& 0x17 = 0x14 → step s = execJmp opa f) ∧
    (ir &&& 0x17 = 0x15 → step s = execJeq cnt opa f) ∧
    (ir &&& 0x17 = 0x16 → step s = execJne cnt opa f) ∧
    (ir &&& 0x37 = 0x00 → step s = execUnknownCore0 cnt b3 f) ∧
    (ir &&& 0x37 = 0x03 → step s = execUnknownCore3 cnt b3 f) ∧
    (ir &&& 0x37 = 0x04 → step s = execUnknownCore4 cnt b3 f) ∧
    (ir &&& 0x37 = 0x21 → step s = execUnsupportedAlu1 cnt b3 f) ∧
    (ir &&& 0x37 = 0x23 → step s = execUnsupportedAlu3 cnt b3 f) ∧
    (ir &&& 0x37 = 0x24 → step s = execUnsupportedAlu4 cnt b3 f) ∧
    (ir &&& 0x37 = 0x25 → step s = execUnsupportedAlu5 cnt b3 f) ∧
    (ir &&& 0x37 = 0x26 → step s = execUnsupportedAlu6 cnt b3 f) ∧
    (ir &&& 0x17 = 0x12 → step s = execUnknownFlow2 cnt b5 b3 f) ∧
    (ir &&& 0x17 = 0x13 → step s = execUnknownFlow3 cnt b5 b3 f) ∧
    (ir &&& 0x17 = 0x17 → step s = execUnknownFlow7 cnt b5 b3 f)

/-- 40_fetch_decode_loop.md, fetch: three reads at `pc`, `pc + 1`, `pc + 2`, each out-of-bounds one reported in address order
(decisions D2, D25, log entry 11), and nothing else changed. -/
def Obligations.FetchReadsThreeBytes : Prop :=
  ∀ s : State,
    fetch s =
      { ir := if s.pc.toNat < 256 then .byte (s.mem.read s.pc.toNat) else .oob
        opa := if s.pc.toNat + 1 < 256 then .byte (s.mem.read (s.pc.toNat + 1)) else .oob
        opb := if s.pc.toNat + 2 < 256 then .byte (s.mem.read (s.pc.toNat + 2)) else .oob
        after := { s with
          err := s.err ++ (([0, 1, 2].map fun k => s.pc.toNat + k).filter fun a => 256 ≤ a).map
            fun a => Event.outOfBounds (a : Int) } }

/-- 40_fetch_decode_loop.md, the opcode read out of bounds: no instruction, `pc` unchanged, three reports, still Running
(decision D4, log entry 10). -/
def Obligations.OpcodeOutOfBoundsDoesNothing : Prop :=
  ∀ s : State, s.status = .running → 256 ≤ s.pc.toNat →
    step s = .next { s with
      err := s.err ++ [.outOfBounds (s.pc.toNat : Int), .outOfBounds ((s.pc.toNat : Int) + 1),
        .outOfBounds ((s.pc.toNat : Int) + 2)] }

/-- 40_fetch_decode_loop.md, the end of a run, and 70_reset_and_hazards.md on `run`: outside Running no number of steps
changes anything, and once ended only reset does (decision D20 for the ignored transactions, log entry 13; "does nothing"
as a step that keeps the state, log entry 2). -/
def Obligations.NothingHappensOutsideRunning : Prop :=
  (∀ (s : State) (n : Nat), s.status ≠ .running → Host.Core.run core n s = .next s) ∧
  ∀ (s : State) (a : HostAction), s.ended = true → a ≠ .reset → hostAct a s = s

/-- The machine never stops the model: every state has a next state, and every instruction too. That a step in Ready, Halted
or Faulted answers the same state is the model's choice, log entry 2; that the fatal error is a next state and no fault
follows decision D10, log entry 10; that an opcode out of bounds goes on follows decision D4, log entry 10. -/
def Obligations.EveryStepHasNextState : Prop :=
  (∀ s : State, ∃ t, step s = .next t) ∧ ∀ (i : Instr) (s : State), ∃ t, exec i s = .next t

/-- 40_fetch_decode_loop.md, the PC advance: for every opcode with bit 4 clear but the fatal ones, executed, squashed or
unknown, `pc` goes up by exactly `1 + cnt` wherever an opcode can be fetched. -/
def Obligations.NonFlowAdvancesByLength : Prop :=
  ∀ (i : Instr) (s t : State), exec i s = .next t → i.unit ≠ .flowControl →
    (i.unit = .alu → i.formatCnt.isSome = true) → s.pc.toNat ≤ 255 →
    t.pc.toNat = s.pc.toNat + i.length

/-- 43_flow_control.md, unit summary: a flow instruction leaves `pc` at an 8-bit target, at the fall-through `pc + 1 + cnt`
(JEQ and JNE only), or where it was (squashed, decision D5, log entry 8; no entry, D11, log entry 10). -/
def Obligations.FlowLeavesPcAtTarget : Prop :=
  ∀ (i : Instr) (s t : State), exec i s = .next t → i.unit = .flowControl →
    t.pc.toNat ≤ 255 ∨ t.pc = s.pc ∨
    (t.pc = s.pc + 1#9 + i.cnt.setWidth 9 ∧ (i.rowMatch = 0x15 ∨ i.rowMatch = 0x16))

/-! ### Frames -/

/-- 10_state.md, which instructions touch which registers: every register but those the table gives the instruction keeps its
value, for all instructions. -/
def Obligations.RegisterFrame : Prop :=
  ∀ (i : Instr) (s t : State) (r : RegIdx),
    exec i s = .next t → writesReg i r = false → t.regs[r.val] = s.regs[r.val]

/-- 20_memory.md, access surface: for all instructions, every byte but the one stored to reads as before; the address stored
to is the decremented stack pointer of PUSH and CALL, from the same `pushOperands` their meanings use; where nothing is
stored, every byte reads as before (a squashed PUSH or CALL: decisions D5, D12, log entries 8, 9). -/
def Obligations.MemoryFrame : Prop :=
  ∀ (i : Instr) (s t : State), exec i s = .next t →
    (∀ a : Nat, storeAddress i s = some a → ∀ b : Nat, b ≠ a → t.mem.read b = s.mem.read b) ∧
    (storeAddress i s = none → ∀ b : Nat, t.mem.read b = s.mem.read b)

/-- 10_state.md, flags: every instruction but CMP leaves all three flags unchanged; CMP leaves exactly one set, or, squashed,
all three unchanged; so a set flag is never lost without another set. The squash is decision D5 (log entry 8). -/
def Obligations.FlagsFrame : Prop :=
  ∀ (i : Instr) (s t : State), exec i s = .next t →
    (i.rowMatch ≠ 0x27 → t.flags = s.flags) ∧
    (i.rowMatch = 0x27 → t.flags = s.flags ∨ t.flags.exactlyOne = true) ∧
    (s.flags.exactlyOne = true → t.flags.exactlyOne = true)

/-- `status` changes only by HLT and by the unsupported ALU selectors, OUT only by PRN, and ERR only by appending at most one
event: for all instructions. At most one event: decisions D5, D19 (log entries 8, 11); the status the unsupported selectors
lead to is Faulted, decision D10 (log entry 10). -/
def Obligations.StatusAndStreamsFrame : Prop :=
  ∀ (i : Instr) (s t : State), exec i s = .next t →
    (i.rowMatch ≠ 0x01 → (i.unit = .alu → i.formatCnt.isSome = true) → t.status = s.status) ∧
    (i.rowMatch ≠ 0x07 → t.out = s.out) ∧
    (t.err = s.err ∨ ∃ e, t.err = s.err ++ [e])

/-- 40_fetch_decode_loop.md, squash, and 60_exceptions.md, precise errors (decision D5, log entry 8): an instruction that does
not execute changes no register, flag, memory cell and emits nothing; `pc` makes the loop's advance (non-flow, not fatal)
or stays; one that executes reports nothing. -/
def Obligations.SquashIsAllOrNothing : Prop :=
  ∀ (i : Instr) (s t : State), exec i s = .next t →
    (executes i s = true → t.err = s.err) ∧
    (executes i s = false →
      t.regs = s.regs ∧ t.flags = s.flags ∧ t.mem = s.mem ∧ t.out = s.out ∧
      (t.pc = if t.status = .faulted ∧ i.unit = .alu ∧ i.formatCnt = none ∨ i.unit = .flowControl then s.pc
        else s.pc + 1#9 + i.cnt.setWidth 9))

/-! ### Memory -/

/-- 20_memory.md, the access surface: a write at an existing address is what a later read there gives and no other read sees
it; a write or a read elsewhere reports and writes nothing. -/
def Obligations.ReadAfterWrite : Prop :=
  ∀ (s : State) (a b : Int) (v : Byte),
    (0 ≤ a → a ≤ 255 → (memRead a (memWrite a v s)).1 = .byte v ∧
      (b ≠ a → (memRead b (memWrite a v s)).1 = (memRead b s).1) ∧
      (memWrite a v s).err = s.err ∧ (memWrite a v s).regs = s.regs) ∧
    (a < 0 ∨ 255 < a →
      memWrite a v s = { s with err := s.err ++ [.outOfBounds a] } ∧
      memRead a s = (.oob, { s with err := s.err ++ [.outOfBounds a] }))

/-- R38: a read of an existing cell returns its content and changes nothing, a write of the same value twice is one write, and
POP changes no cell. -/
def Obligations.ReadsChangeNothing : Prop :=
  (∀ (s : State) (a : Int), 0 ≤ a → a ≤ 255 → memRead a s = (.byte (s.mem.read a.toNat), s)) ∧
  (∀ (s : State) (a : Int) (v : Byte), 0 ≤ a → a ≤ 255 → memWrite a v (memWrite a v s) = memWrite a v s) ∧
  ∀ (cnt : BitVec 2) (b3 : Bool) (opa : Latch) (s t : State), exec (.pop cnt b3 opa) s = .next t → t.mem = s.mem

/-- 20_memory.md, fetch and data: a byte PUSH stores is what the next cycle's fetch reads there, even where it is the
instruction's own opcode; the instruction itself ran on the old bytes. For a PUSH of a register other than 7 whose
decremented stack pointer is any address `a`. -/
def Obligations.StoreIsSeenByLaterFetch : Prop :=
  ∀ (s t : State) (cnt : BitVec 2) (b3 : Bool) (r : RegIdx),
    s.status = .running → decodeBytes s.fetchBytes = .ok (.push cnt b3 (regLatch r)) → r ≠ 7 → s.sp ≠ 0 →
    step s = .next t →
    t.pc = s.pc + 1#9 + cnt.setWidth 9 ∧ t.latch (s.sp.toNat - 1) = .byte s.regs[r.val] ∧
    (t.pc.toNat = s.sp.toNat - 1 → (fetch t).ir = .byte s.regs[r.val])

/-! ### Laws between instructions -/

/-- 41_core_control.md, POP: PUSH then POP into a different register round-trips the value, and SP returns. -/
def Obligations.PushThenPop : Prop :=
  ∀ (c c' : BitVec 2) (x x' : Bool) (r q : RegIdx) (s : State), s.sp ≠ 0 → r ≠ 7 → q ≠ 7 →
    ∃ t u : State, exec (.push c x (regLatch r)) s = .next t ∧ exec (.pop c' x' (regLatch q)) t = .next u ∧
      u.regs[q.val] = s.regs[r.val] ∧ u.sp = s.sp ∧
      ∀ p : RegIdx, p ≠ q → u.regs[p.val] = s.regs[p.val]

/-- 43_flow_control.md, RET: CALL then RET returns `pc` to the address after the CALL and its operand, and SP returns, for a
CALL below address 254. -/
def Obligations.CallThenRet : Prop :=
  ∀ (c c' : BitVec 2) (y x y' x' : Bool) (r : RegIdx) (s : State), s.sp ≠ 0 → s.pc.toNat < 254 →
    ∃ t u : State, exec (.call c y x (regLatch r)) s = .next t ∧ exec (.ret c' y' x') t = .next u ∧
      u.pc.toNat = s.pc.toNat + 2 ∧ u.regs = s.regs

/-- 43_flow_control.md, JEQ and JNE: after CMP of `a` with `b`, JEQ jumps exactly when the registers are equal and JNE exactly
when they are not; the other falls through. -/
def Obligations.CmpThenConditionalJump : Prop :=
  ∀ (c c' : BitVec 2) (x y' x' : Bool) (a b r : RegIdx) (s : State),
    ∃ t : State, exec (.cmp c x (regLatch a) (regLatch b)) s = .next t ∧
      (s.regs[a.val] = s.regs[b.val] →
        exec (.jeq c' y' x' (regLatch r)) t = .next { t with pc := (s.regs[r.val]).setWidth 9 } ∧
        exec (.jne c' y' x' (regLatch r)) t = .next { t with pc := t.pc + 1#9 + c'.setWidth 9 }) ∧
      (s.regs[a.val] ≠ s.regs[b.val] →
        exec (.jeq c' y' x' (regLatch r)) t = .next { t with pc := t.pc + 1#9 + c'.setWidth 9 } ∧
        exec (.jne c' y' x' (regLatch r)) t = .next { t with pc := (s.regs[r.val]).setWidth 9 })

/-! ### Invariants, reset and the host -/

/-- 10_state.md, invariants: from every state with `pc` at most 259, at most one flag set and the memory in canonical form, a
step leads to such a state. The width of `pc` is decision D1 (log entry 5), the canonical form the model's (log entry 4), and
outside Running the step keeps the state (log entry 2). -/
def Obligations.StepKeepsInvariant : Prop :=
  ∀ s t : State, s.Inv → step s = .next t → t.Inv

/-- The reset state meets the invariant. -/
def Obligations.ResetMeetsInvariant : Prop := State.reset.Inv

/-- The host's transactions, and a placed word, keep the invariant. -/
def Obligations.HostKeepsInvariant : Prop :=
  (∀ (a : HostAction) (s : State), s.Inv → (hostAct a s).Inv) ∧
  ∀ (s : State) (nbits w : Nat), s.Inv → (s.withFetchWord nbits w).Inv

/-- 10_state.md, invariants: OUT and ERR only grow, and `status` moves only along the transitions of its state machine (the
state Faulted is decision D10, log entry 10; outside Running the step keeps the state, log entry 2). -/
def Obligations.StreamsGrowAndStatusMoves : Prop :=
  ∀ s t : State, step s = .next t →
    s.out <+: t.out ∧ s.err <+: t.err ∧ s.status.mayBecome t.status = true

/-- 10_state.md, reset values (registers 0 to 6, OUT and ERR: decision D16, log entry 3; memory: D28, log entry 4), from any
state; and `run` and the loader's writes (decision D20, log entry 13). -/
def Obligations.ResetAndRun : Prop :=
  (∀ s : State, hostAct .reset s = State.reset) ∧
  State.reset.sp = 0xF4 ∧ (∀ r : RegIdx, r ≠ 7 → State.reset.regs[r.val] = 0) ∧
  State.reset.pc = 0 ∧ State.reset.flags = ⟨false, false, false⟩ ∧ State.reset.status = .ready ∧
  (∀ a : Nat, State.reset.mem.read a = 0) ∧ State.reset.out = [] ∧ State.reset.err = [] ∧
  (∀ s : State, s.status = .ready → hostAct .run s = { s with status := .running }) ∧
  (∀ s : State, s.status ≠ .ready → hostAct .run s = s) ∧
  ∀ (s : State) (a : Int) (v : Byte), s.status ≠ .ready → hostAct (.write a v) s = s

/-- R141: after any image is loaded and `run`, the first fetch reads cells 0, 1 and 2. -/
def Obligations.EntryPointIsZero : Prop :=
  ∀ image : List Byte,
    let s := hostRun (hostLoad 0 image State.reset)
    s.status = .running ∧ s.pc = 0 ∧
    fetch s = ⟨.byte (s.mem.read 0), .byte (s.mem.read 1), .byte (s.mem.read 2), s⟩

/-- 30_encoding.md and 70_reset_and_hazards.md, the image: byte k goes to cell k, the bytes from the 257th on are refused
(decision D27, log entry 16), nothing but memory and the reports changes. -/
def Obligations.LoaderPlacesImage : Prop :=
  ∀ (image : List Byte) (s : State), s.status = .ready →
    (∀ k : Nat, k < 256 →
      (hostLoad 0 image s).mem.read k = if h : k < image.length then image[k] else s.mem.read k) ∧
    (hostLoad 0 image s).err =
      s.err ++ (List.range' 256 (image.length - 256)).map (fun (a : Nat) => Event.outOfBounds (a : Int)) ∧
    { hostLoad 0 image s with mem := s.mem, err := s.err } = s

/-- 60_exceptions.md, diagnostic trace: the sample is `pc`, the three bytes there and the eight registers. -/
def Obligations.TraceSamplesState : Prop :=
  ∀ s : State, traceTap s =
    { pc := s.pc, m0 := s.latch s.pc.toNat, m1 := s.latch (s.pc.toNat + 1), m2 := s.latch (s.pc.toNat + 2),
      regs := s.regs }

/-! ### Whole-machine rules -/

/-- 10_state.md, OUT: it starts empty (decision D16, log entry 3), PRN alone writes it, and the machine never reads it: with any
other history the step does the same and appends the same (outside Running it keeps the state, log entry 2). -/
def Obligations.OutIsWrittenByPrnAndNeverRead : Prop :=
  State.reset.out = [] ∧
  (∀ (i : Instr) (s t : State), exec i s = .next t → t.out ≠ s.out → ∃ cnt b3 opa, i = .prn cnt b3 opa) ∧
  ∀ s t : State, step s = .next t →
    ∃ more : List Byte, t.out = s.out ++ more ∧
      ∀ o : List Byte, step { s with out := o } = .next { t with out := o ++ more }

/-- 10_state.md, ERR has no effect on machine state (a model may drop it, decision D19, log entry 11), and neither has OUT:
for any number of steps, two runs that differ only in what was sent out before differ only in that, and send the same.
Outside Running the step keeps the state and sends nothing, log entry 2. -/
def Obligations.SentStreamsDoNotInfluence : Prop :=
  ∀ (n : Nat) (s : State), ∃ (t : State) (sent : List Byte) (reported : List Event),
    ∀ (e : List Event) (o : List Byte),
      Host.Core.run core n { s with err := e, out := o } =
        .next { t with err := e ++ reported, out := o ++ sent }

/-- 10_state.md, flags: no instruction reads L or G: with other values of them, every instruction does the same but for L and
G themselves. -/
def Obligations.NoInstructionReadsLOrG : Prop :=
  ∀ (i : Instr) (s t : State) (l g : Bool), exec i s = .next t →
    ∃ t' : State, exec i { s with flags := ⟨l, g, s.flags.e⟩ } = .next t' ∧
      { t' with flags := t.flags } = t ∧ t'.flags.e = t.flags.e

/-- 40_fetch_decode_loop.md, the livelocks: a running machine is livelocked exactly in the four conditions the spec lists
(decisions D3 to D6, D11 to D13; log entries 8, 9, 10). The bytes it names by mask 0x17 are those of the selectors of decision
D9 (log entry 6), with bit 3 and the count left out, decisions D7, D8 (log entry 7); the reports: D19, D25 (log entry 11). -/
def Obligations.LivelocksAreExactlyFour : Prop :=
  ∀ s : State, s.status = .running → (s.Livelocked ↔ s.livelockCondition = true)
end

