-- ==== Sys2Proof/Laws/Encoding.lean ====
section
/-!
SUPPORT. Laws/Encoding.lean: the opcode byte and its fields determine each other (spec/30_encoding.md R51).
-/

namespace Sys2Proof

theorem fieldsOf_opcodeByte : ∀ (cnt : BitVec 2) (alu setspc b3 : Bool) (sel : BitVec 3),
    fieldsOf (opcodeByte cnt alu setspc b3 sel) = ⟨cnt, alu, setspc, b3, sel⟩ := by decide +kernel

theorem opcodeByte_fieldsOf : ∀ ir : Byte,
    opcodeByte (fieldsOf ir).cnt (fieldsOf ir).alu (fieldsOf ir).setspc (fieldsOf ir).bit3 (fieldsOf ir).sel = ir := by
  decide +kernel

/-- The eight selectors. -/
theorem sel_cases : ∀ l : BitVec 3, l = 0 ∨ l = 1 ∨ l = 2 ∨ l = 3 ∨ l = 4 ∨ l = 5 ∨ l = 6 ∨ l = 7 := by decide

/-- What a byte put together from its fields decodes to. -/
theorem decode_opcodeByte (cnt : BitVec 2) (alu setspc b3 : Bool) (sel : BitVec 3) (opa opb : Latch) :
    decode (opcodeByte cnt alu setspc b3 sel) opa opb =
      if setspc then decodeFlow ⟨cnt, alu, setspc, b3, sel⟩ opa
      else if alu then decodeAlu ⟨cnt, alu, setspc, b3, sel⟩ opa opb
      else decodeCore ⟨cnt, alu, setspc, b3, sel⟩ opa opb := by
  simp only [decode, fieldsOf_opcodeByte, Fields.unit]
  cases setspc <;> cases alu <;> rfl

end Sys2Proof
end

