-- ==== Sys2Proof/Laws/State.lean ====
section
/-!
SUPPORT. Laws/State.lean: one lemma per field per update of the state, and the laws of the register file.
-/

namespace Sys2Proof.Machine

open Sys2Proof

/-! `report` -/

@[simp] theorem State.report_regs (e : Event) (s : State) : (s.report e).regs = s.regs := rfl
@[simp] theorem State.report_pc (e : Event) (s : State) : (s.report e).pc = s.pc := rfl
@[simp] theorem State.report_flags (e : Event) (s : State) : (s.report e).flags = s.flags := rfl
@[simp] theorem State.report_status (e : Event) (s : State) : (s.report e).status = s.status := rfl
@[simp] theorem State.report_mem (e : Event) (s : State) : (s.report e).mem = s.mem := rfl
@[simp] theorem State.report_out (e : Event) (s : State) : (s.report e).out = s.out := rfl
@[simp] theorem State.report_err (e : Event) (s : State) : (s.report e).err = s.err ++ [e] := rfl

/-! `raise` -/

@[simp] theorem State.raise_regs (ir : Byte) (s : State) : (s.raise ir).regs = s.regs := rfl
@[simp] theorem State.raise_pc (ir : Byte) (s : State) : (s.raise ir).pc = s.pc := rfl
@[simp] theorem State.raise_flags (ir : Byte) (s : State) : (s.raise ir).flags = s.flags := rfl
@[simp] theorem State.raise_status (ir : Byte) (s : State) : (s.raise ir).status = .faulted := rfl
@[simp] theorem State.raise_mem (ir : Byte) (s : State) : (s.raise ir).mem = s.mem := rfl
@[simp] theorem State.raise_out (ir : Byte) (s : State) : (s.raise ir).out = s.out := rfl
@[simp] theorem State.raise_err (ir : Byte) (s : State) : (s.raise ir).err = s.err ++ [.unsupportedALUOperation ir] := rfl

/-! `setReg` -/

@[simp] theorem State.setReg_regs (s : State) (r : RegIdx) (v : Byte) : (s.setReg r v).regs = s.regs.set r.val v := rfl
@[simp] theorem State.setReg_pc (s : State) (r : RegIdx) (v : Byte) : (s.setReg r v).pc = s.pc := rfl
@[simp] theorem State.setReg_flags (s : State) (r : RegIdx) (v : Byte) : (s.setReg r v).flags = s.flags := rfl
@[simp] theorem State.setReg_status (s : State) (r : RegIdx) (v : Byte) : (s.setReg r v).status = s.status := rfl
@[simp] theorem State.setReg_mem (s : State) (r : RegIdx) (v : Byte) : (s.setReg r v).mem = s.mem := rfl
@[simp] theorem State.setReg_out (s : State) (r : RegIdx) (v : Byte) : (s.setReg r v).out = s.out := rfl
@[simp] theorem State.setReg_err (s : State) (r : RegIdx) (v : Byte) : (s.setReg r v).err = s.err := rfl

/-! `setSp` -/

@[simp] theorem State.setSp_regs (s : State) (v : Byte) : (s.setSp v).regs = s.regs.set 7 v := rfl
@[simp] theorem State.setSp_pc (s : State) (v : Byte) : (s.setSp v).pc = s.pc := rfl
@[simp] theorem State.setSp_flags (s : State) (v : Byte) : (s.setSp v).flags = s.flags := rfl
@[simp] theorem State.setSp_status (s : State) (v : Byte) : (s.setSp v).status = s.status := rfl
@[simp] theorem State.setSp_mem (s : State) (v : Byte) : (s.setSp v).mem = s.mem := rfl
@[simp] theorem State.setSp_out (s : State) (v : Byte) : (s.setSp v).out = s.out := rfl
@[simp] theorem State.setSp_err (s : State) (v : Byte) : (s.setSp v).err = s.err := rfl

/-! `setPc` -/

@[simp] theorem State.setPc_regs (s : State) (t : PcWord) : (s.setPc t).regs = s.regs := rfl
@[simp] theorem State.setPc_pc (s : State) (t : PcWord) : (s.setPc t).pc = t := rfl
@[simp] theorem State.setPc_flags (s : State) (t : PcWord) : (s.setPc t).flags = s.flags := rfl
@[simp] theorem State.setPc_status (s : State) (t : PcWord) : (s.setPc t).status = s.status := rfl
@[simp] theorem State.setPc_mem (s : State) (t : PcWord) : (s.setPc t).mem = s.mem := rfl
@[simp] theorem State.setPc_out (s : State) (t : PcWord) : (s.setPc t).out = s.out := rfl
@[simp] theorem State.setPc_err (s : State) (t : PcWord) : (s.setPc t).err = s.err := rfl

/-! `setFlags` -/

@[simp] theorem State.setFlags_regs (s : State) (f : Flags) : (s.setFlags f).regs = s.regs := rfl
@[simp] theorem State.setFlags_pc (s : State) (f : Flags) : (s.setFlags f).pc = s.pc := rfl
@[simp] theorem State.setFlags_flags (s : State) (f : Flags) : (s.setFlags f).flags = f := rfl
@[simp] theorem State.setFlags_status (s : State) (f : Flags) : (s.setFlags f).status = s.status := rfl
@[simp] theorem State.setFlags_mem (s : State) (f : Flags) : (s.setFlags f).mem = s.mem := rfl
@[simp] theorem State.setFlags_out (s : State) (f : Flags) : (s.setFlags f).out = s.out := rfl
@[simp] theorem State.setFlags_err (s : State) (f : Flags) : (s.setFlags f).err = s.err := rfl

/-! `setStatus` -/

@[simp] theorem State.setStatus_regs (s : State) (st : Status) : (s.setStatus st).regs = s.regs := rfl
@[simp] theorem State.setStatus_pc (s : State) (st : Status) : (s.setStatus st).pc = s.pc := rfl
@[simp] theorem State.setStatus_flags (s : State) (st : Status) : (s.setStatus st).flags = s.flags := rfl
@[simp] theorem State.setStatus_status (s : State) (st : Status) : (s.setStatus st).status = st := rfl
@[simp] theorem State.setStatus_mem (s : State) (st : Status) : (s.setStatus st).mem = s.mem := rfl
@[simp] theorem State.setStatus_out (s : State) (st : Status) : (s.setStatus st).out = s.out := rfl
@[simp] theorem State.setStatus_err (s : State) (st : Status) : (s.setStatus st).err = s.err := rfl

/-! `emit` -/

@[simp] theorem State.emit_regs (s : State) (v : Byte) : (s.emit v).regs = s.regs := rfl
@[simp] theorem State.emit_pc (s : State) (v : Byte) : (s.emit v).pc = s.pc := rfl
@[simp] theorem State.emit_flags (s : State) (v : Byte) : (s.emit v).flags = s.flags := rfl
@[simp] theorem State.emit_status (s : State) (v : Byte) : (s.emit v).status = s.status := rfl
@[simp] theorem State.emit_mem (s : State) (v : Byte) : (s.emit v).mem = s.mem := rfl
@[simp] theorem State.emit_out (s : State) (v : Byte) : (s.emit v).out = s.out ++ [v] := rfl
@[simp] theorem State.emit_err (s : State) (v : Byte) : (s.emit v).err = s.err := rfl

/-! `advance` -/

@[simp] theorem advance_regs (cnt : BitVec 2) (s : State) : (advance cnt s).regs = s.regs := rfl
@[simp] theorem advance_pc (cnt : BitVec 2) (s : State) : (advance cnt s).pc = nextPc s.pc cnt := rfl
@[simp] theorem advance_flags (cnt : BitVec 2) (s : State) : (advance cnt s).flags = s.flags := rfl
@[simp] theorem advance_status (cnt : BitVec 2) (s : State) : (advance cnt s).status = s.status := rfl
@[simp] theorem advance_mem (cnt : BitVec 2) (s : State) : (advance cnt s).mem = s.mem := rfl
@[simp] theorem advance_out (cnt : BitVec 2) (s : State) : (advance cnt s).out = s.out := rfl
@[simp] theorem advance_err (cnt : BitVec 2) (s : State) : (advance cnt s).err = s.err := rfl

/-! `jumpTo` -/

@[simp] theorem jumpTo_regs (r : RegIdx) (s : State) : (jumpTo r s).regs = s.regs := rfl
@[simp] theorem jumpTo_pc (r : RegIdx) (s : State) : (jumpTo r s).pc = zext9 (s.getReg r) := rfl
@[simp] theorem jumpTo_flags (r : RegIdx) (s : State) : (jumpTo r s).flags = s.flags := rfl
@[simp] theorem jumpTo_status (r : RegIdx) (s : State) : (jumpTo r s).status = s.status := rfl
@[simp] theorem jumpTo_mem (r : RegIdx) (s : State) : (jumpTo r s).mem = s.mem := rfl
@[simp] theorem jumpTo_out (r : RegIdx) (s : State) : (jumpTo r s).out = s.out := rfl
@[simp] theorem jumpTo_err (r : RegIdx) (s : State) : (jumpTo r s).err = s.err := rfl

/-! `squash` -/

@[simp] theorem State.squash_regs (e : Option Event) (s : State) : (s.squash e).regs = s.regs := by
  cases e <;> rfl
@[simp] theorem State.squash_pc (e : Option Event) (s : State) : (s.squash e).pc = s.pc := by
  cases e <;> rfl
@[simp] theorem State.squash_flags (e : Option Event) (s : State) : (s.squash e).flags = s.flags := by
  cases e <;> rfl
@[simp] theorem State.squash_status (e : Option Event) (s : State) : (s.squash e).status = s.status := by
  cases e <;> rfl
@[simp] theorem State.squash_mem (e : Option Event) (s : State) : (s.squash e).mem = s.mem := by
  cases e <;> rfl
@[simp] theorem State.squash_out (e : Option Event) (s : State) : (s.squash e).out = s.out := by
  cases e <;> rfl
@[simp] theorem State.squash_err (e : Option Event) (s : State) :
    (s.squash e).err = s.err ++ e.toList := by cases e <;> simp [State.squash, State.report]

/-! ### The register file -/

@[simp] theorem getReg_setReg_same (s : State) (r : RegIdx) (v : Byte) : (s.setReg r v).getReg r = v := by
  simp [State.getReg, State.setReg]

@[simp] theorem getReg_setReg_ne (s : State) {r q : RegIdx} (v : Byte) (h : q ≠ r) :
    (s.setReg r v).getReg q = s.getReg q := by
  have hv : r.val ≠ q.val := fun e => h (Fin.ext e.symm)
  simp [State.getReg, State.setReg, hv]

theorem getReg_setReg (s : State) (r q : RegIdx) (v : Byte) :
    (s.setReg r v).getReg q = if q = r then v else s.getReg q := by
  by_cases h : q = r
  · subst h; simp
  · simp [h]

/-- `SP` and `x[7]` are one storage (R12). -/
theorem sp_eq_getReg (s : State) : s.sp = s.getReg 7 := rfl

theorem setSp_eq_setReg (s : State) (v : Byte) : s.setSp v = s.setReg 7 v := rfl

/-- Registers are read from `regs` alone. -/
theorem getReg_congr {s t : State} (h : s.regs = t.regs) (r : RegIdx) : s.getReg r = t.getReg r := by
  simp [State.getReg, h]

theorem sp_congr {s t : State} (h : s.regs = t.regs) : s.sp = t.sp := getReg_congr h _

end Sys2Proof.Machine
end

