-- ==== Sys2Proof/Laws/Ops.lean ====
section
/-!
SUPPORT. Laws/Ops.lean: for each shared operation of Machine/Ops.lean, Operands.lean and Flags.lean, what it can do, said
once.
-/

namespace Sys2Proof.Machine

open Sys2Proof

/-! ### Memory accesses -/

theorem inRange_iff (addr : Int) : inRange addr = true ↔ 0 ≤ addr ∧ addr < 256 := by
  simp [inRange]

@[simp] theorem inRange_natCast (a : Nat) : inRange (a : Int) = decide (a < 256) := by
  rw [Bool.eq_iff_iff, inRange_iff, decide_eq_true_iff]
  omega

/-- A read at a natural address: the latch, and its report where it is out of bounds (R33). -/
theorem memRead_nat (a : Nat) (s : State) :
    memRead (a : Int) s = (s.latch a, if a < 256 then s else s.report (.outOfBounds a)) := by
  by_cases h : a < 256 <;> simp [memRead, State.latch, h]

/-- The two outcomes of a read (R33). -/
theorem memRead_cases (addr : Int) (s : State) :
    (inRange addr = true ∧ memRead addr s = (.byte (s.mem.read addr.toNat), s)) ∨
    (inRange addr = false ∧ memRead addr s = (.oob, s.report (.outOfBounds addr))) := by
  cases h : inRange addr <;> simp [memRead, h]

/-- The two outcomes of a write (R34). -/
theorem memWrite_cases (addr : Int) (v : Byte) (s : State) :
    (inRange addr = true ∧ memWrite addr v s = { s with mem := s.mem.write addr.toNat v }) ∨
    (inRange addr = false ∧ memWrite addr v s = s.report (.outOfBounds addr)) := by
  cases h : inRange addr <;> simp [memWrite, h]

/-- A write at an 8-bit address always lands. -/
@[simp] theorem memWrite_byte (a v : Byte) (s : State) :
    memWrite (a.toNat : Int) v s = { s with mem := s.mem.write a.toNat v } := by
  have h : a.toNat < 256 := a.isLt
  simp [memWrite, h]

@[simp] theorem load_eq (s : State) (a : Byte) : s.load a = s.mem.read a.toNat := rfl

/-! ### Fetch -/

@[simp] theorem latch_report (s : State) (e : Event) (a : Nat) : (s.report e).latch a = s.latch a := rfl

/-- Everything fetch does (R71): three latches, and the reports. -/
theorem fetch_eq (s : State) : fetch s =
    { ir := s.latch s.pc.toNat, opa := s.latch (s.pc.toNat + 1), opb := s.latch (s.pc.toNat + 2),
      after := s.fetched } := by
  have e1 : ((s.pc.toNat : Int) + 1) = ((s.pc.toNat + 1 : Nat) : Int) := by push_cast; rfl
  have e2 : ((s.pc.toNat : Int) + 2) = ((s.pc.toNat + 2 : Nat) : Int) := by push_cast; rfl
  simp only [fetch, e1, e2, memRead_nat]
  by_cases h0 : s.pc.toNat < 256 <;> by_cases h1 : s.pc.toNat + 1 < 256 <;>
    by_cases h2 : s.pc.toNat + 2 < 256 <;>
    first
      | omega
      | simp [State.fetched, fetchReports, State.report, h0, h1, h2, State.latch]

@[simp] theorem fetchReports_low {pc : PcWord} (h : pc.toNat < 254) : fetchReports pc = [] := by
  have h0 : pc.toNat < 256 := by omega
  have h1 : pc.toNat + 1 < 256 := by omega
  have h2 : pc.toNat + 2 < 256 := by omega
  simp [fetchReports, h0, h1, h2]

@[simp] theorem fetched_regs (s : State) : s.fetched.regs = s.regs := rfl
@[simp] theorem fetched_pc (s : State) : s.fetched.pc = s.pc := rfl
@[simp] theorem fetched_flags (s : State) : s.fetched.flags = s.flags := rfl
@[simp] theorem fetched_status (s : State) : s.fetched.status = s.status := rfl
@[simp] theorem fetched_mem (s : State) : s.fetched.mem = s.mem := rfl
@[simp] theorem fetched_out (s : State) : s.fetched.out = s.out := rfl
@[simp] theorem fetched_err (s : State) : s.fetched.err = s.err ++ fetchReports s.pc := rfl

theorem latch_lt {s : State} {a : Nat} (h : a < 256) : s.latch a = .byte (s.mem.read a) := by
  simp [State.latch, h]

theorem latch_ge {s : State} {a : Nat} (h : 256 ≤ a) : s.latch a = .oob := by
  simp [State.latch, Nat.not_lt.2 h]

/-! ### Checks -/

@[simp] theorem orSquash_ok {α : Type} (a : α) (s : State) (k : α → State) : (Checked.ok a).orSquash s k = k a := rfl

@[simp] theorem orSquash_squashed {α : Type} (e : Option Event) (s : State) (k : α → State) :
    (Checked.squashed e : Checked α).orSquash s k = s.squash e := rfl

@[simp] theorem bind_ok {α β : Type} (a : α) (k : α → Checked β) : (Checked.ok a).bind k = k a := rfl

@[simp] theorem bind_squashed {α β : Type} (e : Option Event) (k : α → Checked β) :
    (Checked.squashed e : Checked α).bind k = .squashed e := rfl

@[simp] theorem passed_ok {α : Type} (a : α) : (Checked.ok a).passed = true := rfl

@[simp] theorem passed_squashed {α : Type} (e : Option Event) : (Checked.squashed e : Checked α).passed = false := rfl

@[simp] theorem reg_oob : reg .oob = .squashed none := rfl

@[simp] theorem imm_oob : imm .oob = .squashed none := rfl

@[simp] theorem imm_byte (b : Byte) : imm (.byte b) = .ok b := rfl

theorem reg_byte_lt {b : Byte} (h : b.toNat < 8) : reg (.byte b) = .ok ⟨b.toNat, h⟩ := by
  simp [reg, h]

theorem reg_byte_ge {b : Byte} (h : 8 ≤ b.toNat) : reg (.byte b) = .squashed (some (.badRegister b)) := by
  simp [reg, Nat.not_lt.2 h]

/-- The byte `r` names register `r` (R53). -/
@[simp] theorem reg_regLatch (r : RegIdx) : reg (regLatch r) = .ok r := by
  fin_cases r <;> rfl

/-- Only the byte `r` names register `r` (R53, R79). -/
theorem reg_eq_ok_iff (op : Latch) (r : RegIdx) : reg op = .ok r ↔ op = regLatch r := by
  constructor
  · intro h
    cases op with
    | oob => simp at h
    | byte b =>
      by_cases hb : b.toNat < 8
      · rw [reg_byte_lt hb] at h
        injection h with h
        subst h
        simp [regLatch]
      · rw [reg_byte_ge (Nat.not_lt.1 hb)] at h
        cases h
  · rintro rfl
    exact reg_regLatch r

theorem decSp_zero : decSp 0#8 = .squashed (some (.outOfBounds (-1))) := rfl

theorem decSp_pos {sp : Byte} (h : sp ≠ 0#8) : decSp sp = .ok (sp - 1#8) := by simp [decSp, h]

theorem incSp_top : incSp 255#8 = .squashed (some (.outOfBounds 256)) := rfl

theorem incSp_lt {b : Byte} (h : b ≠ 255#8) : incSp b = .ok (b + 1#8) := by simp [incSp, h]

/-- When the checks of PUSH and CALL pass (R93, R110). -/
theorem pushOperands_eq_ok_iff (opa : Latch) (s : State) (p : RegIdx × Byte) :
    pushOperands opa s = .ok p ↔ opa = regLatch p.1 ∧ s.sp ≠ 0#8 ∧ p.2 = s.sp - 1#8 := by
  obtain ⟨r, n⟩ := p
  constructor
  · intro h
    unfold pushOperands at h
    cases hr : reg opa with
    | squashed e => simp [hr] at h
    | ok q =>
      rw [hr] at h
      by_cases hs : s.sp = 0#8
      · simp [hs, decSp] at h
      · simp [decSp, hs] at h
        obtain ⟨rfl, rfl⟩ := h
        exact ⟨(reg_eq_ok_iff _ _).1 hr, hs, rfl⟩
  · rintro ⟨rfl, hs, rfl⟩
    simp [pushOperands, decSp, hs]

/-- The checks read registers and memory only: what was sent out does not matter. -/
theorem pushOperands_congr {s t : State} (h : s.regs = t.regs) (opa : Latch) : pushOperands opa s = pushOperands opa t := by
  simp [pushOperands, sp_congr h]

theorem popOperands_congr {s t : State} (h : s.regs = t.regs) (hm : s.mem = t.mem) (opa : Latch) :
    popOperands opa s = popOperands opa t := by
  simp [popOperands, sp_congr h, hm]

/-! ### Flags -/

/-- A comparison sets exactly one flag (R103). -/
theorem compareFlags_exactlyOne (x y : Byte) : (compareFlags x y).exactlyOne = true := by
  unfold compareFlags
  split
  · rfl
  · split <;> rfl

/-! ### Program counter -/

@[simp] theorem zext9_toNat (v : Byte) : (zext9 v).toNat = v.toNat := by
  have h := v.isLt
  simp only [zext9, BitVec.toNat_setWidth]
  omega

/-- The advance is exact wherever an opcode can be fetched (R14, R76). -/
theorem nextPc_toNat {pc : PcWord} (h : pc.toNat ≤ 259) (cnt : BitVec 2) :
    (nextPc pc cnt).toNat = pc.toNat + 1 + cnt.toNat := by
  have hc := cnt.isLt
  simp only [nextPc, BitVec.toNat_add, BitVec.toNat_setWidth, BitVec.toNat_ofNat]
  omega

/-- The advance always moves `pc`. -/
theorem nextPc_ne (pc : PcWord) (cnt : BitVec 2) : nextPc pc cnt ≠ pc := by
  intro h
  have h2 := congrArg BitVec.toNat h
  have hc := cnt.isLt
  have hp := pc.isLt
  simp only [nextPc, BitVec.toNat_add, BitVec.toNat_setWidth, BitVec.toNat_ofNat] at h2
  omega

end Sys2Proof.Machine
end

