-- ==== Sys2Proof/Laws/Exec.lean ====
section
/-!
SUPPORT. Laws/Exec.lean: what the meanings are made of, said once: the checks of each operand form, the squash as a case
split, the push, the call, the jump and a miss.
-/

namespace Sys2Proof.Machine

open Sys2Proof

/-- A property of the state after an instruction's own effect: show it of the effect where the checks pass, and of the squash
where one fails (R78, R80). -/
theorem orSquash_elim {α : Type} (c : Checked α) (s : State) (k : α → State) (P : State → Prop)
    (pass : ∀ a, c = .ok a → P (k a)) (fail : ∀ e, c = .squashed e → P (s.squash e)) : P (c.orSquash s k) := by
  cases c with
  | ok a => exact pass a rfl
  | squashed e => exact fail e rfl

/-- A chain of checks passes when both do. -/
theorem bind_eq_ok_iff {α β : Type} (c : Checked α) (k : α → Checked β) (b : β) :
    c.bind k = .ok b ↔ ∃ a, c = .ok a ∧ k a = .ok b := by
  cases c with
  | ok a => simp
  | squashed e => simp

theorem regImm_eq_ok_iff (opa opb : Latch) (p : RegIdx × Byte) :
    regImm opa opb = .ok p ↔ opa = regLatch p.1 ∧ opb = .byte p.2 := by
  obtain ⟨r, v⟩ := p
  simp only [regImm, bind_eq_ok_iff, reg_eq_ok_iff]
  constructor
  · rintro ⟨q, rfl, w, hw, h⟩
    cases opb with
    | oob => cases hw
    | byte b => cases hw; cases h; exact ⟨rfl, rfl⟩
  · rintro ⟨rfl, rfl⟩
    exact ⟨r, rfl, v, rfl, rfl⟩

theorem regReg_eq_ok_iff (opa opb : Latch) (p : RegIdx × RegIdx) :
    regReg opa opb = .ok p ↔ opa = regLatch p.1 ∧ opb = regLatch p.2 := by
  obtain ⟨a, b⟩ := p
  simp only [regReg, bind_eq_ok_iff, reg_eq_ok_iff]
  constructor
  · rintro ⟨q, rfl, w, rfl, h⟩
    cases h
    exact ⟨rfl, rfl⟩
  · rintro ⟨rfl, rfl⟩
    exact ⟨a, rfl, b, rfl, rfl⟩

theorem incSp_eq_ok_iff (b n : Byte) : incSp b = .ok n ↔ b ≠ 255#8 ∧ n = b + 1#8 := by
  by_cases h : b = 255#8
  · simp [incSp, h]
  · rw [incSp_lt h]
    constructor
    · intro e; cases e; exact ⟨h, rfl⟩
    · rintro ⟨-, rfl⟩; rfl

/-- When the checks of POP pass, and with what (R94). -/
theorem popOperands_eq_ok_iff (opa : Latch) (s : State) (p : RegIdx × Byte × Byte) :
    popOperands opa s = .ok p ↔
      opa = regLatch p.1 ∧ p.2.1 = s.load s.sp ∧
        (if p.1 = 7 then s.load s.sp else s.sp) ≠ 255#8 ∧
        p.2.2 = (if p.1 = 7 then s.load s.sp else s.sp) + 1#8 := by
  obtain ⟨r, v, n⟩ := p
  simp only [popOperands, bind_eq_ok_iff, reg_eq_ok_iff, incSp_eq_ok_iff, Config.spIndex]
  constructor
  · rintro ⟨q, rfl, m, ⟨h, rfl⟩, e⟩
    cases e
    exact ⟨rfl, rfl, h, rfl⟩
  · rintro ⟨rfl, rfl, h, hn⟩
    exact ⟨r, rfl, n, ⟨h, hn⟩, rfl⟩

/-- The push stores below the stack pointer, and its store always lands (R93). -/
theorem pushReg_eq (r : RegIdx) (n : Byte) (s : State) :
    pushReg r n s =
      { s with regs := s.regs.set 7 n, mem := s.mem.write n.toNat ((s.setSp n).getReg r) } := by
  simp only [pushReg, memWrite_byte]
  rfl

/-- The call pushes, then jumps (R110). -/
theorem callReg_eq (r : RegIdx) (n : Byte) (s : State) :
    callReg r n s =
      { s with
        regs := s.regs.set 7 n
        mem := s.mem.write n.toNat (returnAddress s.pc)
        pc := zext9 ((s.setSp n).getReg r) } := by
  simp only [callReg, memWrite_byte]
  rfl

/-- The jump assigns `pc` or is squashed (R112). -/
theorem jump_cases (opa : Latch) (s : State) :
    (∃ r, opa = regLatch r ∧ jump opa s = { s with pc := zext9 (s.getReg r) }) ∨
    (∃ e, reg opa = .squashed e ∧ jump opa s = s.squash e) := by
  cases h : reg opa with
  | ok r => exact .inl ⟨r, (reg_eq_ok_iff _ _).1 h, by simp only [jump, h, orSquash_ok]; rfl⟩
  | squashed e => exact .inr ⟨e, rfl, by simp [jump, h]⟩

/-- A miss in the core table: one report and the advance (R77). -/
theorem coreMiss_eq (cnt : BitVec 2) (ir : Byte) (s : State) :
    coreMiss cnt ir s = { s with err := s.err ++ [.unknownOpcode ir], pc := nextPc s.pc cnt } := rfl

/-- A squash appends at most one event and changes nothing else (R80). -/
theorem squash_eq (e : Option Event) (s : State) : s.squash e = { s with err := s.err ++ e.toList } := by
  cases e with
  | none => simp [State.squash]
  | some v => rfl

end Sys2Proof.Machine
end

