-- ==== Sys2Proof/Laws/PerInstr.lean ====
section
/-!
SUPPORT. Laws/PerInstr.lean: statements made per instruction. OpcodeInRow: the opcode byte the encoder writes lies in the
instruction's row of spec/opcode_table.json (spec/30_encoding.md R55, R57) and holds the count that gives the length (R50).
-/

namespace Sys2Proof.Laws.OpcodeInRow

open Sys2Proof

/-- The encoded opcode is in the row, and its bits 7 to 6 are the instruction's count. -/
def Statement (i : Instr) : Prop :=
  i.opcode &&& i.rowMask = i.rowMatch ∧ (fieldsOf i.opcode).cnt = i.cnt

/-- Core and ALU rows: under mask 0x37 the count and bit 3 drop out (R57). -/
theorem nonflow_row : ∀ (c : BitVec 2) (y x : Bool) (l : BitVec 3),
    opcodeByte c y false x l &&& 0x37 = opcodeByte 0 y false false l ∧
      (fieldsOf (opcodeByte c y false x l)).cnt = c := by decide

/-- Flow rows: under mask 0x17 the count and bits 5 and 3 drop out (R57). -/
theorem flow_row : ∀ (c : BitVec 2) (y x : Bool) (l : BitVec 3),
    opcodeByte c y true x l &&& 0x17 = opcodeByte 0 false true false l ∧
      (fieldsOf (opcodeByte c y true x l)).cnt = c := by decide

theorem hlt (cnt : BitVec 2) (b3 : Bool) : Statement (.hlt cnt b3) :=
  nonflow_row cnt false b3 0b001

theorem ldi (cnt : BitVec 2) (b3 : Bool) (opa opb : Latch) : Statement (.ldi cnt b3 opa opb) :=
  nonflow_row cnt false b3 0b010

theorem prn (cnt : BitVec 2) (b3 : Bool) (opa : Latch) : Statement (.prn cnt b3 opa) :=
  nonflow_row cnt false b3 0b111

theorem push (cnt : BitVec 2) (b3 : Bool) (opa : Latch) : Statement (.push cnt b3 opa) :=
  nonflow_row cnt false b3 0b101

theorem pop (cnt : BitVec 2) (b3 : Bool) (opa : Latch) : Statement (.pop cnt b3 opa) :=
  nonflow_row cnt false b3 0b110

theorem add (cnt : BitVec 2) (b3 : Bool) (opa opb : Latch) : Statement (.add cnt b3 opa opb) :=
  nonflow_row cnt true b3 0b000

theorem mul (cnt : BitVec 2) (b3 : Bool) (opa opb : Latch) : Statement (.mul cnt b3 opa opb) :=
  nonflow_row cnt true b3 0b010

theorem cmp (cnt : BitVec 2) (b3 : Bool) (opa opb : Latch) : Statement (.cmp cnt b3 opa opb) :=
  nonflow_row cnt true b3 0b111

theorem call (cnt : BitVec 2) (b5 b3 : Bool) (opa : Latch) : Statement (.call cnt b5 b3 opa) :=
  flow_row cnt b5 b3 0b000

theorem ret (cnt : BitVec 2) (b5 b3 : Bool) : Statement (.ret cnt b5 b3) :=
  flow_row cnt b5 b3 0b001

theorem jmp (cnt : BitVec 2) (b5 b3 : Bool) (opa : Latch) : Statement (.jmp cnt b5 b3 opa) :=
  flow_row cnt b5 b3 0b100

theorem jeq (cnt : BitVec 2) (b5 b3 : Bool) (opa : Latch) : Statement (.jeq cnt b5 b3 opa) :=
  flow_row cnt b5 b3 0b101

theorem jne (cnt : BitVec 2) (b5 b3 : Bool) (opa : Latch) : Statement (.jne cnt b5 b3 opa) :=
  flow_row cnt b5 b3 0b110

theorem unknownCore0 (cnt : BitVec 2) (b3 : Bool) : Statement (.unknownCore0 cnt b3) :=
  nonflow_row cnt false b3 0b000

theorem unknownCore3 (cnt : BitVec 2) (b3 : Bool) : Statement (.unknownCore3 cnt b3) :=
  nonflow_row cnt false b3 0b011

theorem unknownCore4 (cnt : BitVec 2) (b3 : Bool) : Statement (.unknownCore4 cnt b3) :=
  nonflow_row cnt false b3 0b100

theorem unsupportedAlu1 (cnt : BitVec 2) (b3 : Bool) : Statement (.unsupportedAlu1 cnt b3) :=
  nonflow_row cnt true b3 0b001

theorem unsupportedAlu3 (cnt : BitVec 2) (b3 : Bool) : Statement (.unsupportedAlu3 cnt b3) :=
  nonflow_row cnt true b3 0b011

theorem unsupportedAlu4 (cnt : BitVec 2) (b3 : Bool) : Statement (.unsupportedAlu4 cnt b3) :=
  nonflow_row cnt true b3 0b100

theorem unsupportedAlu5 (cnt : BitVec 2) (b3 : Bool) : Statement (.unsupportedAlu5 cnt b3) :=
  nonflow_row cnt true b3 0b101

theorem unsupportedAlu6 (cnt : BitVec 2) (b3 : Bool) : Statement (.unsupportedAlu6 cnt b3) :=
  nonflow_row cnt true b3 0b110

theorem unknownFlow2 (cnt : BitVec 2) (b5 b3 : Bool) : Statement (.unknownFlow2 cnt b5 b3) :=
  flow_row cnt b5 b3 0b010

theorem unknownFlow3 (cnt : BitVec 2) (b5 b3 : Bool) : Statement (.unknownFlow3 cnt b5 b3) :=
  flow_row cnt b5 b3 0b011

theorem unknownFlow7 (cnt : BitVec 2) (b5 b3 : Bool) : Statement (.unknownFlow7 cnt b5 b3) :=
  flow_row cnt b5 b3 0b111

end Sys2Proof.Laws.OpcodeInRow
end

