-- ==== Sys2Proof/Laws/Step.lean ====
section
/-!
SUPPORT. Laws/Step.lean: everything a step can do, in three lemmas, by status and `pc`
(spec/40_fetch_decode_loop.md R70 to R73).
-/

namespace Sys2Proof.Machine

open Sys2Proof

/-- Outside Running a step keeps the state. -/
theorem step_of_not_running {s : State} (h : s.status ≠ .running) : step s = .next s := by
  unfold step loopStep
  cases hs : s.status <;> first | exact absurd hs h | rfl

/-- While Running with `pc` below 256, a step executes what the opcode byte there decodes to. -/
theorem step_of_opcode {s : State} (h : s.status = .running) (h0 : s.pc.toNat < 256) :
    step s = exec (decode (s.mem.read s.pc.toNat) (s.latch (s.pc.toNat + 1)) (s.latch (s.pc.toNat + 2))) s.fetched := by
  unfold step loopStep
  rw [h]
  show cycle s = _
  unfold cycle
  rw [fetch_eq, latch_lt h0]

/-- While Running with `pc` at 256 or above, only the reports are made. -/
theorem step_of_oob {s : State} (h : s.status = .running) (h0 : 256 ≤ s.pc.toNat) : step s = .next s.fetched := by
  unfold step loopStep
  rw [h]
  show cycle s = _
  unfold cycle
  rw [fetch_eq, latch_ge h0]

/-- The decoder on the bytes of memory agrees with the decoder on the latches. -/
theorem decodeBytes_fetchBytes {s : State} (h0 : s.pc.toNat < 256) :
    decodeBytes s.fetchBytes =
      .ok (decode (s.mem.read s.pc.toNat) (s.latch (s.pc.toNat + 1)) (s.latch (s.pc.toNat + 2))) := by
  unfold State.fetchBytes
  rw [latch_lt h0]
  by_cases h1 : s.pc.toNat + 1 < 256
  · by_cases h2 : s.pc.toNat + 2 < 256
    · rw [latch_lt h1, latch_lt h2]; rfl
    · rw [latch_lt h1, latch_ge (by omega)]; rfl
  · rw [latch_ge (a := s.pc.toNat + 1) (by omega), latch_ge (a := s.pc.toNat + 2) (by omega)]; rfl

end Sys2Proof.Machine
end

