-- ==== Sys2Proof/Machine/Assembly.lean ====
section
/-!
DEFINITION. Machine/Assembly.lean: the assembly notation of spec/30_encoding.md R61 as data: instruction lines, labels,
the directive `.byte`, and the bytes a source assembles to. Labels for people, no part of the machine (decision D24); how
a line is spelled as text is left out (log entry 17).
-/

namespace Sys2Proof.Machine

open Sys2Proof

/-- An LDI immediate: a number, or a label, which stands for its address (R61). -/
inductive AsmImm where
  | value (v : Byte)
  | label (name : String)
deriving DecidableEq, Repr

/-- One line of a source (R61). -/
inductive AsmLine where
  | label (name : String)
  | byte (v : Byte)
  | hlt
  | ldi (r : RegIdx) (i : AsmImm)
  | prn (r : RegIdx)
  | push (r : RegIdx)
  | pop (r : RegIdx)
  | add (a b : RegIdx)
  | mul (a b : RegIdx)
  | cmp (a b : RegIdx)
  | call (r : RegIdx)
  | ret
  | jmp (r : RegIdx)
  | jeq (r : RegIdx)
  | jne (r : RegIdx)
deriving DecidableEq, Repr

/-- The operand byte of a register. -/
def asmReg (r : RegIdx) : Byte := BitVec.ofNat 8 r.val

/-- The bytes a line takes (R50, R61). -/
def AsmLine.size (l : AsmLine) : Nat :=
  match l with
  | .label _ => 0
  | .byte _ | .hlt | .ret => 1
  | .prn _ | .push _ | .pop _ | .call _ | .jmp _ | .jeq _ | .jne _ => 2
  | .ldi _ _ | .add _ _ | .mul _ _ | .cmp _ _ => 3

/-- The address a label stands for: that of the next byte after it (R61); none where the source has no such label. DESIGN
CHOICE (log entry 22): where two lines define the same label the spec is silent, and the model takes the first. -/
def labelAddress (name : String) (addr : Nat) (lines : List AsmLine) : Option Nat :=
  match lines with
  | [] => none
  | l :: rest => if l = .label name then some addr else labelAddress name (addr + l.size) rest

/-- An immediate as a byte. DESIGN CHOICE (log entry 22): none for a missing label or an address that is no byte. -/
def AsmImm.value? (i : AsmImm) (source : List AsmLine) : Option Byte :=
  match i with
  | .value v => some v
  | .label name =>
    match labelAddress name 0 source with
    | some a => if a < Config.memSize then some (BitVec.ofNat 8 a) else none
    | none => none

/-- The bytes of one line: the canonical opcode of R56 and the operand bytes. -/
def AsmLine.bytes (l : AsmLine) (source : List AsmLine) : Option (List Byte) :=
  match l with
  | .label _ => some []
  | .byte v => some [v]
  | .hlt => some [0x01]
  | .ldi r i =>
    match i.value? source with
    | some v => some [0x82, asmReg r, v]
    | none => none
  | .prn r => some [0x47, asmReg r]
  | .push r => some [0x45, asmReg r]
  | .pop r => some [0x46, asmReg r]
  | .add a b => some [0xA0, asmReg a, asmReg b]
  | .mul a b => some [0xA2, asmReg a, asmReg b]
  | .cmp a b => some [0xA7, asmReg a, asmReg b]
  | .call r => some [0x50, asmReg r]
  | .ret => some [0x11]
  | .jmp r => some [0x54, asmReg r]
  | .jeq r => some [0x55, asmReg r]
  | .jne r => some [0x56, asmReg r]

/-- The bytes of the lines, in order. -/
def linesBytes (lines source : List AsmLine) : Option (List Byte) :=
  match lines with
  | [] => some []
  | l :: rest =>
    match l.bytes source, linesBytes rest source with
    | some bs, some more => some (bs ++ more)
    | _, _ => none

/-- The image a source assembles to, the first byte for cell 0 (R61, R62). -/
def assemble (source : List AsmLine) : Option (List Byte) := linesBytes source source

end Sys2Proof.Machine
end

