-- ==== Sys2Proof/Tests/Slice0.lean ====
section
/-!
SUPPORT. Tests/Slice0.lean: tests whose expected results are the vectors of spec/95_test_vectors.md and the words of
spec/30_encoding.md, and a witness for the hypotheses of every obligation that has some.
-/

namespace Sys2Proof.Tests

open Sys2Proof Sys2Proof.Machine

/-! ### Helpers -/

/-- The start of a vector of 95_test_vectors.md: the reset state, Running, with the changes listed. -/
def start (pc : PcWord) (regs : List (RegIdx × Byte)) (cells : List (Nat × Byte)) : State :=
  { State.reset with
    status := .running, pc := pc
    regs := regs.foldl (fun v p => v.set p.1.val p.2) State.reset.regs
    mem := cells.foldl (fun m c => m.write c.1 c.2) [] }

/-- A start with flags set. -/
def startFlags (l g e : Bool) (pc : PcWord) (regs : List (RegIdx × Byte)) (cells : List (Nat × Byte)) : State :=
  { start pc regs cells with flags := ⟨l, g, e⟩ }

/-- The next state of an outcome. -/
def nextOf (o : Outcome) : Option State :=
  match o with
  | .next t => some t
  | .fault _ => none
  | .refused _ => none

/-- One cycle changes the start as the vector's end says. -/
abbrev Becomes (s : State) (change : State → State) : Prop := nextOf (step s) = some (change s)

/-! ### Well-formedness: the check refuses each ill-formed term -/

theorem test_ill_formed_ldi : (Instr.ldi 2 false .oob (.byte 5)).wf = false := by decide
theorem test_ill_formed_add : (Instr.add 2 false .oob (.byte 1)).wf = false := by decide
theorem test_ill_formed_mul : (Instr.mul 2 false .oob (.byte 1)).wf = false := by decide
theorem test_ill_formed_cmp : (Instr.cmp 2 false .oob (.byte 1)).wf = false := by decide
theorem test_well_formed_end_of_memory : (Instr.ldi 2 false (.byte 0) .oob).wf = true := by decide

/-! ### Decoding: words written out bit by bit from 30_encoding.md and 95_test_vectors.md B1 -/

theorem test_decode_core :
    decodeBytes [0b00000001, 9, 9] = .ok (.hlt 0 false) ∧
    decodeBytes [0b10000010, 0, 8] = .ok (.ldi 2 false (.byte 0) (.byte 8)) ∧
    decodeBytes [0b01000111, 0, 1] = .ok (.prn 1 false (.byte 0)) ∧
    decodeBytes [0b01000101, 7] = .ok (.push 1 false (.byte 7)) ∧
    decodeBytes [0b01000110, 7] = .ok (.pop 1 false (.byte 7)) := by decide

theorem test_decode_alu :
    decodeBytes [0b10100000, 1, 2] = .ok (.add 2 false (.byte 1) (.byte 2)) ∧
    decodeBytes [0b10100010, 1, 2] = .ok (.mul 2 false (.byte 1) (.byte 2)) ∧
    decodeBytes [0b10100111, 1, 2] = .ok (.cmp 2 false (.byte 1) (.byte 2)) := by decide

theorem test_decode_flow :
    decodeBytes [0b01010000, 4] = .ok (.call 1 false false (.byte 4)) ∧
    decodeBytes [0b00010001] = .ok (.ret 0 false false) ∧
    decodeBytes [0b01010100, 4] = .ok (.jmp 1 false false (.byte 4)) ∧
    decodeBytes [0b01010101, 4] = .ok (.jeq 1 false false (.byte 4)) ∧
    decodeBytes [0b01010110, 4] = .ok (.jne 1 false false (.byte 4)) := by decide

/-- The aliases of B1: bit 3, the count, and bit 5 of a flow opcode are not looked at. -/
theorem test_decode_aliases :
    decodeBytes [0b10001010, 3, 5] = .ok (.ldi 2 true (.byte 3) (.byte 5)) ∧
    decodeBytes [0b00000010, 3, 5] = .ok (.ldi 0 false (.byte 3) (.byte 5)) ∧
    decodeBytes [0b11000010, 3, 5] = .ok (.ldi 3 false (.byte 3) (.byte 5)) ∧
    decodeBytes [0b01110100, 2, 0] = .ok (.jmp 1 true false (.byte 2)) ∧
    decodeBytes [0b10101000, 0, 1] = .ok (.add 2 true (.byte 0) (.byte 1)) := by decide

/-- The eleven byte classes with no instruction (R58), B1's bytes among them. -/
theorem test_decode_misses :
    decodeBytes [0b00000000] = .ok (.unknownCore0 0 false) ∧
    decodeBytes [0b01001000] = .ok (.unknownCore0 1 true) ∧
    decodeBytes [0b00000011] = .ok (.unknownCore3 0 false) ∧
    decodeBytes [0b00000100] = .ok (.unknownCore4 0 false) ∧
    decodeBytes [0b10100001] = .ok (.unsupportedAlu1 2 false) ∧
    decodeBytes [0b10100011] = .ok (.unsupportedAlu3 2 false) ∧
    decodeBytes [0b01100100] = .ok (.unsupportedAlu4 1 false) ∧
    decodeBytes [0b01100101] = .ok (.unsupportedAlu5 1 false) ∧
    decodeBytes [0b01100110] = .ok (.unsupportedAlu6 1 false) ∧
    decodeBytes [0b01010010] = .ok (.unknownFlow2 1 false false) ∧
    decodeBytes [0b00010011] = .ok (.unknownFlow3 0 false false) ∧
    decodeBytes [0b11111111] = .ok (.unknownFlow7 3 true true) := by decide

/-- How many of the 256 bytes satisfy a test of their decoded instruction. -/
def countBytes (p : Instr → Bool) : Nat :=
  ((List.range 256).filter fun n => p (decode (BitVec.ofNat 8 n) .oob .oob)).length

/-- The counts of R58. -/
theorem test_byte_counts :
    countBytes (fun i => i.unit == .flowControl && i.formatCnt.isSome) = 80 ∧
    countBytes (fun i => i.unit == .flowControl && i.formatCnt.isNone) = 48 ∧
    countBytes (fun i => i.unit == .alu && i.formatCnt.isSome) = 24 ∧
    countBytes (fun i => i.unit == .alu && i.formatCnt.isNone) = 40 ∧
    countBytes (fun i => i.unit == .coreControl && i.formatCnt.isSome) = 40 ∧
    countBytes (fun i => i.unit == .coreControl && i.formatCnt.isNone) = 24 := by decide +kernel

/-- A table word numbers the second byte 15..8, and bytes above `nbits` are 0. -/
theorem test_table_word :
    decodeTableWord 24 0x550382 = some (.ldi 2 false (.byte 3) (.byte 0x55)) ∧
    decodeTableWord 16 0x550354 = some (.jmp 1 false false (.byte 3)) ∧
    decodeTableWord 8 0x82 = some (.ldi 2 false (.byte 0) (.byte 0)) := by decide

/-- A placed word is what the next step runs, right after reset. -/
theorem test_placed_word :
    Becomes (State.reset.withFetchWord 24 0x550382)
      (fun s => { s with regs := s.regs.set 3 0x55, pc := 3 }) := by decide

/-! ### One cycle, 95_test_vectors.md B2 to B5 -/

theorem test_hlt : Becomes (start 0 [] [(0, 0x01)]) (fun s => { s with status := .halted, pc := 1 }) := by decide

theorem test_hlt_at_255 : Becomes (start 255 [] [(255, 0x01)])
    (fun s => { s with status := .halted, pc := 256, err := [.outOfBounds 256, .outOfBounds 257] }) := by decide

theorem test_ldi_bad_register : Becomes (start 0 [] [(0, 0x82), (1, 0x08), (2, 0x05)])
    (fun s => { s with pc := 3, err := [.badRegister 8] }) := by decide

theorem test_ldi_at_254 : Becomes (start 254 [] [(254, 0x82), (255, 0x00)])
    (fun s => { s with pc := 257, err := [.outOfBounds 256] }) := by decide

theorem test_prn : Becomes (start 0 [(5, 200)] [(0, 0x47), (1, 0x05)])
    (fun s => { s with pc := 2, out := [200] }) := by decide

theorem test_prn_bad_register : Becomes (start 0 [] [(0, 0x47), (1, 0xC8)])
    (fun s => { s with pc := 2, err := [.badRegister 200] }) := by decide

theorem test_push_r7 : Becomes (start 0 [] [(0, 0x45), (1, 0x07)])
    (fun s => { s with regs := s.regs.set 7 0xF3, pc := 2, mem := s.mem ++ [(0xF3, 0xF3)] }) := by decide

theorem test_push_at_sp_1 : Becomes (start 0 [(0, 0x2A), (7, 1)] [(0, 0x45)])
    (fun s => { s with regs := s.regs.set 7 0, pc := 2, mem := [(0, 0x2A)] }) := by decide

theorem test_pop_r7 : Becomes (start 0 [] [(0xF4, 0x10), (0, 0x46), (1, 0x07)])
    (fun s => { s with regs := s.regs.set 7 0x11, pc := 2 }) := by decide

theorem test_pop_at_sp_255 : Becomes (start 0 [(0, 1), (7, 0xFF)] [(0xFF, 0x77), (0, 0x46)])
    (fun s => { s with pc := 2, err := [.outOfBounds 256] }) := by decide

theorem test_add_wraps : Becomes (start 0 [(0, 200), (1, 100)] [(0, 0xA0), (2, 0x01)])
    (fun s => { s with regs := s.regs.set 0 44, pc := 3 }) := by decide

theorem test_add_into_sp : Becomes (startFlags false false true 0 [(0, 0x10)] [(0, 0xA0), (1, 0x07)])
    (fun s => { s with regs := s.regs.set 7 0x04, pc := 3 }) := by decide

theorem test_mul_wraps : Becomes (start 0 [(0, 255), (1, 255)] [(0, 0xA2), (2, 0x01)])
    (fun s => { s with regs := s.regs.set 0 1, pc := 3 }) := by decide

theorem test_mul_same_register : Becomes (start 0 [(3, 13)] [(0, 0xA2), (1, 3), (2, 3)])
    (fun s => { s with regs := s.regs.set 3 169, pc := 3 }) := by decide

theorem test_cmp_is_unsigned : Becomes (startFlags false false true 0 [(0, 0x80), (1, 0x7F)] [(0, 0xA7), (2, 0x01)])
    (fun s => { s with flags := ⟨false, true, false⟩, pc := 3 }) := by decide

theorem test_cmp_bad_register : Becomes (startFlags true false false 0 [(0, 1)] [(0, 0xA7), (2, 0x08)])
    (fun s => { s with pc := 3, err := [.badRegister 8] }) := by decide

theorem test_call_r7 : Becomes (start 6 [] [(6, 0x50), (7, 0x07)])
    (fun s => { s with regs := s.regs.set 7 0xF3, pc := 0xF3, mem := s.mem ++ [(0xF3, 0x08)] }) := by decide

theorem test_call_at_254 : Becomes (start 254 [(1, 0x10)] [(254, 0x50), (255, 0x01), (0xF3, 9)])
    (fun s => { s with
      regs := s.regs.set 7 0xF3, pc := 0x10, mem := [(254, 0x50), (255, 0x01)], err := [.outOfBounds 256] }) := by
  decide

theorem test_ret_alias : Becomes (start 6 [] [(0xF4, 0x09), (6, 0xD1)])
    (fun s => { s with regs := s.regs.set 7 0xF5, pc := 9 }) := by decide

theorem test_ret_at_sp_255 : Becomes (start 6 [(7, 0xFF)] [(0xFF, 0x33), (6, 0x11)])
    (fun s => { s with err := [.outOfBounds 256] }) := by decide

theorem test_jmp_alias_leaves_sp : Becomes (start 0 [(2, 0x40)] [(0, 0x74), (1, 0x02)])
    (fun s => { s with pc := 0x40 }) := by decide

theorem test_jmp_bad_register : Becomes (start 0 [] [(0, 0x54), (1, 0x09)])
    (fun s => { s with err := [.badRegister 9] }) := by decide

theorem test_jeq_taken : Becomes (startFlags false false true 4 [(2, 0x13)] [(4, 0x55), (5, 0x02)])
    (fun s => { s with pc := 0x13 }) := by decide

theorem test_jeq_not_taken_ignores_operand : Becomes (start 0 [] [(0, 0x55), (1, 0xFF)])
    (fun s => { s with pc := 2 }) := by decide

theorem test_jne_taken : Becomes (startFlags true false false 4 [(2, 0x30)] [(4, 0x56), (5, 0x02)])
    (fun s => { s with pc := 0x30 }) := by decide

theorem test_jne_not_taken : Becomes (startFlags false false true 4 [(2, 0x30)] [(4, 0x56), (5, 0x02)])
    (fun s => { s with pc := 6 }) := by decide

theorem test_core_miss_0 : Becomes (start 0 [] [(0, 0x48), (1, 0x02)])
    (fun s => { s with pc := 2, err := [.unknownOpcode 0x48] }) := by decide

theorem test_core_miss_3 : Becomes (start 0 [] [(0, 0x03)])
    (fun s => { s with pc := 1, err := [.unknownOpcode 0x03] }) := by decide

theorem test_core_miss_4 : Becomes (start 0 [] [(0, 0x84)])
    (fun s => { s with pc := 3, err := [.unknownOpcode 0x84] }) := by decide

theorem test_alu_miss_1_at_255 : Becomes (start 255 [] [(255, 0xA1)])
    (fun s => { s with
      status := .faulted, err := [.outOfBounds 256, .outOfBounds 257, .unsupportedALUOperation 0xA1] }) := by decide

theorem test_alu_miss_3 : Becomes (start 0 [] [(0, 0xA3)])
    (fun s => { s with status := .faulted, err := [.unsupportedALUOperation 0xA3] }) := by decide

theorem test_alu_miss_4 : Becomes (start 0 [] [(0, 0xA4)])
    (fun s => { s with status := .faulted, err := [.unsupportedALUOperation 0xA4] }) := by decide

theorem test_alu_miss_5 : Becomes (start 0 [] [(0, 0x65)])
    (fun s => { s with status := .faulted, err := [.unsupportedALUOperation 0x65] }) := by decide

theorem test_alu_miss_6 : Becomes (start 0 [] [(0, 0xA6)])
    (fun s => { s with status := .faulted, err := [.unsupportedALUOperation 0xA6] }) := by decide

theorem test_flow_miss_2 : Becomes (start 0 [] [(0, 0x52), (1, 0x02)])
    (fun s => { s with err := [.unknownOpcode 0x52] }) := by decide

theorem test_flow_miss_3 : Becomes (start 0 [] [(0, 0x13)])
    (fun s => { s with err := [.unknownOpcode 0x13] }) := by decide

theorem test_flow_miss_7 : Becomes (start 0 [] [(0, 0xFF)])
    (fun s => { s with err := [.unknownOpcode 0xFF] }) := by decide

/-- The loop at `pc = 257` (the second cycle of "LDI at 254"). -/
theorem test_opcode_out_of_bounds : Becomes (start 257 [] [])
    (fun s => { s with err := [.outOfBounds 257, .outOfBounds 258, .outOfBounds 259] }) := by decide

/-- An image file (R62, R63): a comment, an empty line, a byte with text after it, a byte. -/
theorem test_image_text :
    parseImage ["# print".toList, [], "10000010 # LDI R0,8".toList, "00001000".toList] = some [0x82, 0x08] ∧
    parseImage ["1000001".toList] = none := by decide

/-- R61's example, the program of A1, and a label as an LDI immediate. -/
theorem test_assemble :
    assemble [.ldi 0 (.value 8)] = some [0x82, 0x00, 0x08] ∧
    assemble [.ldi 0 (.value 8), .prn 0, .hlt] = some [0b10000010, 0, 8, 0b01000111, 0, 0b00000001] ∧
    assemble [.ldi 1 (.label "f"), .call 1, .hlt, .label "f", .ret] =
      some [0x82, 1, 6, 0x50, 1, 0x01, 0x11] ∧
    assemble [.ldi 1 (.label "g")] = none := by decide

/-! ### Witnesses: the hypotheses of each obligation are met, and each clause at a value of its boundary -/

theorem witness_ThirteenCanonicalBytes :
    (decode 0x82 .oob .oob).canonical = true ∧ (decode 0x8A .oob .oob).canonical = false := by decide

theorem witness_EveryByteInExactlyOneRow :
    (0x54 : Byte) &&& (Instr.jmp 1 false false .oob).rowMask = (Instr.jmp 1 false false .oob).rowMatch ∧
    (0x54 : Byte) &&& (Instr.jmp 0 true true .oob).rowMask = (Instr.jmp 0 true true .oob).rowMatch := by decide

theorem witness_DecodeOfEncode :
    (Instr.ldi 2 false (.byte 7) .oob).WellFormed ∧ (Instr.ldi 2 false (.byte 7) (.byte 255)).WellFormed ∧
    (Instr.ldi 2 false (.byte 7) (.byte 255)).complete = true ∧ (Instr.hlt 0 false).complete = true := by decide

theorem witness_EncodeOfDecode :
    decodeBytes [0x82, 7] = .ok (.ldi 2 false (.byte 7) .oob) ∧
    decodeBytes [0x82, 7, 255, 1] = .ok (.ldi 2 false (.byte 7) (.byte 255)) := by decide

/-- Equal counts (0x82, 0x8A) and different counts (0x82, 0x02). -/
theorem witness_AliasesDoTheSame :
    (decode 0x82 (.byte 1) (.byte 5)).rowMatch = (decode 0x8A (.byte 1) (.byte 5)).rowMatch ∧
    (decode 0x82 (.byte 1) (.byte 5)).rowMatch = (decode 0x02 (.byte 1) (.byte 5)).rowMatch ∧
    (decode 0x82 (.byte 1) (.byte 5)).formatCnt.isSome = true ∧
    (0x82 : Byte).toNat / 64 = (0x8A : Byte).toNat / 64 ∧
    (nextOf (exec (decode 0x82 (.byte 1) (.byte 5)) State.reset)).isSome = true ∧
    (nextOf (exec (decode 0x8A (.byte 1) (.byte 5)) State.reset)).isSome = true ∧
    (nextOf (exec (decode 0x02 (.byte 1) (.byte 5)) State.reset)).isSome = true := by decide

theorem witness_HltHaltsAndAdvances :
    ((nextOf (step (start 0 [] [(0, 0x01)]))).map State.status = some .halted ∧
      (start 0 [] [(0, 0x01)]).status ≠ .halted) ∧
    ((start 255 [] [(255, 0x01)]).status = .running ∧ (start 255 [] [(255, 0x01)]).pc = 255 ∧
      (start 255 [] [(255, 0x01)]).mem.read 255 = 0x01) := by decide

/-- HLT at 255, the last cell, with the highest count. -/
theorem witness_HltCycleIsTheLast :
    (start 255 [] [(255, 0xC1)]).status = .running ∧
    decodeBytes (start 255 [] [(255, 0xC1)]).fetchBytes = .ok (.hlt 3 false) := by decide

/-- The register limit: the byte 7 names a register, the byte 8 is the first that does not. -/
theorem witness_register_operand : regLatch 7 = .byte 7 ∧ regLatch 0 = .byte 0 ∧ 8 ≤ (8 : Byte).toNat := by decide

theorem witness_LdiLoadsImmediate : 8 ≤ (8 : Byte).toNat ∧ 8 ≤ (255 : Byte).toNat := by decide

theorem witness_PrnEmitsRegister : 8 ≤ (8 : Byte).toNat ∧ 8 ≤ (255 : Byte).toNat := by decide

theorem witness_PushStoresBelowStackPointer :
    (start 0 [(7, 1)] []).sp ≠ 0 ∧ (start 0 [(7, 0)] []).sp = 0 ∧ 8 ≤ (8 : Byte).toNat := by decide

theorem witness_PopLoadsAtStackPointer :
    ((6 : RegIdx) ≠ 7 ∧ (start 0 [(7, 254)] []).sp ≠ 255) ∧
    ((6 : RegIdx) ≠ 7 ∧ (start 0 [(7, 255)] []).sp = 255) ∧
    (start 0 [] [(0xF4, 254)]).mem.read (start 0 [] [(0xF4, 254)]).sp.toNat ≠ 255 ∧
    (start 0 [] [(0xF4, 255)]).mem.read (start 0 [] [(0xF4, 255)]).sp.toNat = 255 ∧
    8 ≤ (8 : Byte).toNat := by decide

theorem witness_AddModulo256 : 8 ≤ (8 : Byte).toNat ∧ 8 ≤ (255 : Byte).toNat := by decide

theorem witness_MulModulo256 : 8 ≤ (8 : Byte).toNat ∧ 8 ≤ (255 : Byte).toNat := by decide

theorem witness_CmpSetsOneFlag : 8 ≤ (8 : Byte).toNat ∧ 8 ≤ (255 : Byte).toNat := by decide

theorem witness_CallPushesReturnAddress :
    (start 254 [(7, 1)] []).sp ≠ 0 ∧ (start 254 [(7, 0)] []).sp = 0 ∧ 8 ≤ (8 : Byte).toNat := by decide

theorem witness_RetPopsIntoPc : (start 0 [(7, 254)] []).sp ≠ 255 ∧ (start 0 [(7, 255)] []).sp = 255 := by decide

theorem witness_JmpAssignsPcOnly : 8 ≤ (8 : Byte).toNat ∧ 8 ≤ (255 : Byte).toNat := by decide

theorem witness_JeqJumpsOnEqual :
    (startFlags false false true 0 [] []).flags.e = true ∧ (Latch.byte 2 = regLatch 2) ∧
    State.reset.flags.e = false := by decide

theorem witness_JneJumpsOnNotEqual :
    State.reset.flags.e = false ∧ (Latch.byte 2 = regLatch 2) ∧
    (startFlags false false true 0 [] []).flags.e = true := by decide

theorem witness_CoreMissReportsAndAdvances :
    Instr.unknownCore0 3 true = .unknownCore0 3 true ∧ Instr.unknownCore3 3 true = .unknownCore3 3 true ∧
    Instr.unknownCore4 3 true = .unknownCore4 3 true := by decide

theorem witness_UnsupportedAluFaults :
    Instr.unsupportedAlu1 2 false = decode 0xA1 .oob .oob ∧ Instr.unsupportedAlu3 2 false = decode 0xA3 .oob .oob ∧
    Instr.unsupportedAlu4 2 false = decode 0xA4 .oob .oob ∧ Instr.unsupportedAlu5 2 false = decode 0xA5 .oob .oob ∧
    Instr.unsupportedAlu6 2 false = decode 0xA6 .oob .oob := by decide

theorem witness_FlowMissReportsOnly :
    Instr.unknownFlow2 1 false false = decode 0x52 .oob .oob ∧ Instr.unknownFlow3 1 false false = decode 0x53 .oob .oob ∧
    Instr.unknownFlow7 1 false false = decode 0x57 .oob .oob := by decide

/-- At `pc` 253 nothing is out of bounds, at 255 both operands are. -/
theorem witness_StepRunsDecodedInstruction :
    ((start 253 [] [(253, 0x82), (254, 7), (255, 9)]).status = .running ∧
      decodeBytes (start 253 [] [(253, 0x82), (254, 7), (255, 9)]).fetchBytes =
        .ok (.ldi 2 false (.byte 7) (.byte 9))) ∧
    ((start 255 [] [(255, 0x82)]).status = .running ∧
      decodeBytes (start 255 [] [(255, 0x82)]).fetchBytes = .ok (.ldi 2 false .oob .oob)) := by decide

/-- `pc` 255 with one byte of each row there. -/
theorem witness_CycleFollowsOpcodeTable :
    (∀ b ∈ [(0xC9 : Byte), 0x82, 0x47, 0x45, 0x46, 0xA0, 0xA2, 0xA7, 0x00, 0x03, 0x04, 0x21, 0x23, 0x24, 0x25, 0x26,
        0x50, 0x31, 0x54, 0x55, 0x56, 0x12, 0x13, 0xFF],
      (start 255 [] [(255, b)]).status = .running ∧ (start 255 [] [(255, b)]).pc.toNat < 256 ∧
      (start 255 [] [(255, b)]).mem.read 255 = b) ∧
    [(0xC9 : Byte), 0x82, 0x47, 0x45, 0x46, 0xA0, 0xA2, 0xA7, 0x00, 0x03, 0x04, 0x21, 0x23, 0x24, 0x25, 0x26].map
      (· &&& 0x37) = [0x01, 0x02, 0x07, 0x05, 0x06, 0x20, 0x22, 0x27, 0x00, 0x03, 0x04, 0x21, 0x23, 0x24, 0x25, 0x26] ∧
    [(0x50 : Byte), 0x31, 0x54, 0x55, 0x56, 0x12, 0x13, 0xFF].map (· &&& 0x17) =
      [0x10, 0x11, 0x14, 0x15, 0x16, 0x12, 0x13, 0x17] := by decide +kernel

theorem witness_OpcodeOutOfBoundsDoesNothing :
    (start 256 [] []).status = .running ∧ 256 ≤ (start 256 [] []).pc.toNat ∧
    256 ≤ (start 259 [] []).pc.toNat := by decide

theorem witness_NothingHappensOutsideRunning :
    State.reset.status ≠ .running ∧
    ({ State.reset with status := .halted }).ended = true ∧ ({ State.reset with status := .faulted }).ended = true ∧
    HostAction.run ≠ .reset ∧ HostAction.write 0 1 ≠ .reset := by decide

theorem witness_NonFlowAdvancesByLength :
    (nextOf (exec (.add 2 false (.byte 0) (.byte 1)) (start 255 [] []))).isSome = true ∧
    (Instr.add 2 false (.byte 0) (.byte 1)).unit ≠ .flowControl ∧
    (Instr.add 2 false (.byte 0) (.byte 1)).formatCnt.isSome = true ∧ (start 255 [] []).pc.toNat ≤ 255 := by decide

theorem witness_FlowLeavesPcAtTarget :
    (nextOf (exec (.jne 1 false false (.byte 9)) State.reset)).isSome = true ∧
    (Instr.jne 1 false false (.byte 9)).unit = .flowControl := by decide

theorem witness_RegisterFrame :
    (nextOf (exec (.ldi 2 false (.byte 3) (.byte 9)) State.reset)).isSome = true ∧
    writesReg (.ldi 2 false (.byte 3) (.byte 9)) 2 = false ∧ writesReg (.ldi 2 false (.byte 3) (.byte 9)) 3 = true := by
  decide

/-- PUSH at SP 1 stores at 0; at SP 0 it stores nothing. -/
theorem witness_MemoryFrame :
    (nextOf (exec (.push 1 false (.byte 0)) (start 0 [(7, 1)] []))).isSome = true ∧
    storeAddress (.push 1 false (.byte 0)) (start 0 [(7, 1)] []) = some 0 ∧
    storeAddress (.push 1 false (.byte 0)) (start 0 [(7, 0)] []) = none ∧
    storeAddress (.call 1 false false (.byte 0)) State.reset = some 0xF3 := by decide

theorem witness_FlagsFrame :
    (nextOf (exec (.cmp 2 false (.byte 0) (.byte 1)) (startFlags true false false 0 [] []))).isSome = true ∧
    (Instr.cmp 2 false (.byte 0) (.byte 1)).rowMatch = 0x27 ∧ (Instr.hlt 0 false).rowMatch ≠ 0x27 ∧
    (startFlags true false false 0 [] []).flags.exactlyOne = true := by decide

theorem witness_StatusAndStreamsFrame :
    (nextOf (exec (.add 2 false (.byte 0) (.byte 1)) State.reset)).isSome = true ∧
    (Instr.add 2 false (.byte 0) (.byte 1)).rowMatch ≠ 0x01 ∧ (Instr.add 2 false (.byte 0) (.byte 1)).rowMatch ≠ 0x07 ∧
    (Instr.add 2 false (.byte 0) (.byte 1)).formatCnt.isSome = true := by decide

theorem witness_SquashIsAllOrNothing :
    (nextOf (exec (.pop 1 false (.byte 0)) (start 0 [(7, 254)] []))).isSome = true ∧
    executes (.pop 1 false (.byte 0)) (start 0 [(7, 254)] []) = true ∧
    executes (.pop 1 false (.byte 0)) (start 0 [(7, 255)] []) = false ∧
    executes (.jmp 1 false false (.byte 8)) State.reset = false ∧
    executes (.unsupportedAlu1 2 false) State.reset = false := by decide

theorem witness_ReadAfterWrite :
    ((0 : Int) ≤ 0 ∧ (0 : Int) ≤ 255) ∧ ((0 : Int) ≤ 255 ∧ (255 : Int) ≤ 255) ∧ ((1 : Int) ≠ 0) ∧
    ((-1 : Int) < 0 ∨ 255 < (-1 : Int)) ∧ ((256 : Int) < 0 ∨ 255 < (256 : Int)) := by decide

theorem witness_ReadsChangeNothing :
    ((0 : Int) ≤ 0 ∧ (0 : Int) ≤ 255) ∧ ((0 : Int) ≤ 255 ∧ (255 : Int) ≤ 255) ∧
    (nextOf (exec (.pop 1 false (.byte 0)) State.reset)).isSome = true := by decide

/-- A PUSH at address 0 with SP 3 stores into cell 2, where the next cycle fetches its opcode. -/
theorem witness_StoreIsSeenByLaterFetch :
    (start 0 [(0, 0x01), (7, 3)] [(0, 0x45)]).status = .running ∧
    decodeBytes (start 0 [(0, 0x01), (7, 3)] [(0, 0x45)]).fetchBytes = .ok (.push 1 false (regLatch 0)) ∧
    (0 : RegIdx) ≠ 7 ∧ (start 0 [(0, 0x01), (7, 3)] [(0, 0x45)]).sp ≠ 0 ∧
    (nextOf (step (start 0 [(0, 0x01), (7, 3)] [(0, 0x45)]))).map (fun t => (t.pc, (fetch t).ir)) =
      some (2, .byte 0x01) := by decide

theorem witness_PushThenPop : (start 0 [(7, 1)] []).sp ≠ 0 ∧ (0 : RegIdx) ≠ 7 ∧ (6 : RegIdx) ≠ 7 := by decide

theorem witness_CallThenRet : (start 253 [(7, 1)] []).sp ≠ 0 ∧ (start 253 [(7, 1)] []).pc.toNat < 254 := by decide

theorem witness_CmpThenConditionalJump :
    State.reset.regs[0] = State.reset.regs[1] ∧ (start 0 [(1, 1)] []).regs[0] ≠ (start 0 [(1, 1)] []).regs[1] := by decide

theorem witness_StepKeepsInvariant :
    (start 254 [(1, 0x10)] [(254, 0x50), (255, 0x01)]).Inv ∧
    (nextOf (step (start 254 [(1, 0x10)] [(254, 0x50), (255, 0x01)]))).isSome = true := by decide

theorem witness_HostKeepsInvariant : State.reset.Inv ∧ (start 259 [] []).Inv := by decide

theorem witness_StreamsGrowAndStatusMoves :
    (nextOf (step (start 0 [] [(0, 0x01)]))).isSome = true ∧ (nextOf (step State.reset)).isSome = true := by decide

theorem witness_ResetAndRun :
    (6 : RegIdx) ≠ 7 ∧ State.reset.status = .ready ∧ (start 0 [] []).status ≠ .ready := by decide

theorem witness_LoaderPlacesImage : State.reset.status = .ready ∧ 255 < 256 ∧ ¬ 255 < [(1 : Byte), 2].length := by decide

theorem witness_OutIsWrittenByPrnAndNeverRead :
    (nextOf (exec (.prn 1 false (.byte 7)) State.reset)).map State.out = some [0xF4] ∧
    State.reset.out ≠ [0xF4] ∧ (nextOf (step (start 0 [] [(0, 0x47)]))).isSome = true := by decide

theorem witness_NoInstructionReadsLOrG :
    (nextOf (exec (.jeq 1 false false (.byte 0)) (startFlags true false true 0 [] []))).isSome = true := by decide

/-- One state for each condition of R83, and one that is not livelocked. -/
theorem witness_LivelocksAreExactlyFour :
    (start 0 [] []).status = .running ∧
    (start 256 [] []).livelockCondition = true ∧
    (start 0 [] [(0, 0x52)]).livelockCondition = true ∧
    (start 0 [] [(0, 0x54), (1, 8)]).livelockCondition = true ∧
    (start 255 [] [(255, 0x56)]).livelockCondition = true ∧
    (start 0 [(7, 0)] [(0, 0x50)]).livelockCondition = true ∧
    (start 0 [(7, 255)] [(0, 0x11)]).livelockCondition = true ∧
    (start 0 [(7, 254)] [(0, 0x11)]).livelockCondition = false := by decide

end Sys2Proof.Tests
end

section
/-!
PROOFS. The statements of spec/20_memory.md: what an access inside 0 to 255 does, and that POP only reads memory.
-/

namespace Sys2Proof.Machine

open Sys2Proof

/-! ### Accesses inside the range -/

/-- The cells that exist are those at 0 to 255 (R30, R32). -/
theorem inRange_of_le_255 {addr : Int} (h0 : 0 ≤ addr) (h1 : addr ≤ 255) : inRange addr = true :=
  (inRange_iff addr).2 ⟨h0, Int.lt_add_one_of_le h1⟩

/-- A read of an existing cell (R33). -/
theorem memRead_of_inRange {addr : Int} (h : inRange addr = true) (s : State) :
    memRead addr s = (.byte (s.mem.read addr.toNat), s) := if_pos h

/-- A write of an existing cell (R34). -/
theorem memWrite_of_inRange {addr : Int} (h : inRange addr = true) (v : Byte) (s : State) :
    memWrite addr v s = { s with mem := s.mem.write addr.toNat v } := if_pos h

/-- Inside the range, the same write twice is one write (R38). -/
theorem memWrite_memWrite_of_inRange {addr : Int} (h : inRange addr = true) (v : Byte) (s : State) :
    memWrite addr v (memWrite addr v s) = memWrite addr v s := by
  simp only [memWrite_of_inRange h, Memory.write_write]

/-! ### POP -/

/-- The meaning the dispatch gives POP (R94). -/
theorem exec_pop_eq (cnt : BitVec 2) (b3 : Bool) (opa : Latch) (s : State) :
    exec (.pop cnt b3 opa) s = execPop cnt opa s := rfl

/-- POP keeps memory, executed or squashed: its effect is two register writes (R80, R94). -/
theorem execPop_mem {cnt : BitVec 2} {opa : Latch} {s t : State} (h : execPop cnt opa s = .next t) : t.mem = s.mem := by
  cases h
  rw [advance_mem]
  refine orSquash_elim _ _ _ (fun u => u.mem = s.mem) (fun p _ => ?_) (fun e _ => s.squash_mem e)
  rw [State.setSp_mem, State.setReg_mem]

/-- Settles O41, clause by clause: an access of an existing cell passes the range check, a repeated write leaves even the list
of cells the same, and POP writes registers alone. -/
theorem readsChangeNothing : Obligations.ReadsChangeNothing := by
  refine ⟨fun s a h0 h1 => ?_, fun s a v h0 h1 => ?_, fun cnt b3 opa s t h => ?_⟩
  · exact memRead_of_inRange (inRange_of_le_255 h0 h1) s
  · exact memWrite_memWrite_of_inRange (inRange_of_le_255 h0 h1) v s
  · rw [exec_pop_eq] at h
    exact execPop_mem h

end Sys2Proof.Machine
end

section
/-!
PROOFS. The statements of spec/30_encoding.md: the fields of the opcode byte (R51) and the routing to a unit (R54).
-/

namespace Sys2Proof

/-! ### The fields as arithmetic on the byte -/

/-- A bit of the byte is the lowest digit of what is left after dividing by the bit's weight. -/
theorem getLsbD_eq_decide_div_mod (ir : Byte) (k : Nat) : ir.getLsbD k = decide (ir.toNat / 2 ^ k % 2 = 1) := by
  rw [BitVec.getLsbD, Nat.testBit_eq_decide_div_mod_eq]

theorem fieldsOf_cnt_toNat (ir : Byte) : (fieldsOf ir).cnt.toNat = ir.toNat / 64 := by
  have hlt : ir.toNat < 256 := ir.isLt
  have hcnt : (fieldsOf ir).cnt.toNat = ir.toNat / 2 ^ 6 % 2 ^ 2 := by
    simp only [fieldsOf, BitVec.extractLsb'_toNat, Nat.shiftRight_eq_div_pow]
  omega

theorem fieldsOf_alu (ir : Byte) : (fieldsOf ir).alu = decide (ir.toNat / 32 % 2 = 1) :=
  getLsbD_eq_decide_div_mod ir 5

theorem fieldsOf_setspc (ir : Byte) : (fieldsOf ir).setspc = decide (ir.toNat / 16 % 2 = 1) :=
  getLsbD_eq_decide_div_mod ir 4

theorem fieldsOf_sel_toNat (ir : Byte) : (fieldsOf ir).sel.toNat = ir.toNat % 8 := by
  simp only [fieldsOf, BitVec.extractLsb'_toNat, Nat.shiftRight_zero]

/-- Settles O1: the fields of any byte from the lemmas above; the three printed bytes are put together from their fields,
which `fieldsOf` gives back. -/
theorem opcodeByteFields : Obligations.OpcodeByteFields := by
  refine ⟨fun ir => ⟨?_, ?_, ?_, ?_⟩, ?_, ?_, ?_⟩
  · exact fieldsOf_cnt_toNat ir
  · exact fieldsOf_alu ir
  · exact fieldsOf_setspc ir
  · exact fieldsOf_sel_toNat ir
  · exact fieldsOf_opcodeByte 2 false false false 0b010
  · exact fieldsOf_opcodeByte 1 false false false 0b111
  · exact fieldsOf_opcodeByte 0 false false false 0b001

/-! ### Routing -/

/-- Every entry of the flow table is a flow instruction (R55). -/
theorem decodeFlow_unit (f : Fields) (opa : Latch) : (decodeFlow f opa).unit = .flowControl := by
  unfold decodeFlow
  split <;> rfl

/-- Every entry of the ALU's table is an ALU instruction (R55). -/
theorem decodeAlu_unit (f : Fields) (opa opb : Latch) : (decodeAlu f opa opb).unit = .alu := by
  unfold decodeAlu
  split <;> rfl

/-- Every entry of the core table is a core instruction (R55). -/
theorem decodeCore_unit (f : Fields) (opa opb : Latch) : (decodeCore f opa opb).unit = .coreControl := by
  unfold decodeCore
  split <;> rfl

/-- The decoded instruction belongs to the unit its opcode byte is routed to (R54). -/
theorem decode_unit (ir : Byte) (opa opb : Latch) : (decode ir opa opb).unit = (fieldsOf ir).unit := by
  cases hunit : (fieldsOf ir).unit with
  | flowControl => simp only [decode, hunit, decodeFlow_unit]
  | alu => simp only [decode, hunit, decodeAlu_unit]
  | coreControl => simp only [decode, hunit, decodeCore_unit]

/-- The size of a unit's class of opcode bytes (R54). -/
def ExecUnit.classSize : ExecUnit → Nat
  | .flowControl => 128
  | .alu | .coreControl => 64

/-- Of the 256 bytes, `classSize` are routed to each unit (R54). -/
theorem length_filter_routed (u : ExecUnit) :
    ((List.range 256).filter fun n => (fieldsOf (BitVec.ofNat 8 n)).unit == u).length = u.classSize := by
  cases u <;> decide +kernel

/-- The same count for what the bytes decode to: the operands do not matter. -/
theorem length_filter_decode_unit (u : ExecUnit) :
    ((List.range 256).filter fun n => (decode (BitVec.ofNat 8 n) .oob .oob).unit == u).length = u.classSize := by
  simpa only [decode_unit] using length_filter_routed u

/-- Settles O2: decoding keeps the unit that bits 4 and 5 route to, and the routing alone is counted. -/
theorem routingByBitFourThenFive : Obligations.RoutingByBitFourThenFive := by
  refine ⟨fun ir opa opb => ?_, ?_, ?_, ?_⟩
  · exact decode_unit ir opa opb
  · exact length_filter_decode_unit .flowControl
  · exact length_filter_decode_unit .alu
  · exact length_filter_decode_unit .coreControl

end Sys2Proof
end

section
/-!
PROOFS. The statements of spec/70_reset_and_hazards.md: where the first fetch after `run` reads (R141).
-/

namespace Sys2Proof.Machine

open Sys2Proof

/-! ### Loading an image keeps `pc` and `status` -/

theorem memWrite_pc (addr : Int) (v : Byte) (s : State) : (memWrite addr v s).pc = s.pc := by
  obtain ⟨-, h⟩ | ⟨-, h⟩ := memWrite_cases addr v s
  · rw [h]
  · rw [h, State.report_pc]

theorem memWrite_status (addr : Int) (v : Byte) (s : State) : (memWrite addr v s).status = s.status := by
  obtain ⟨-, h⟩ | ⟨-, h⟩ := memWrite_cases addr v s
  · rw [h]
  · rw [h, State.report_status]

/-- The host's write is `MemWrite` or nothing (R142). -/
theorem hostWrite_cases (addr : Int) (v : Byte) (s : State) :
    (s.status = .ready ∧ hostWrite addr v s = memWrite addr v s) ∨
    (s.status ≠ .ready ∧ hostWrite addr v s = s) := by
  cases h : s.status <;> simp [hostWrite, h]

theorem hostWrite_pc (addr : Int) (v : Byte) (s : State) : (hostWrite addr v s).pc = s.pc := by
  obtain ⟨-, h⟩ | ⟨-, h⟩ := hostWrite_cases addr v s
  · rw [h, memWrite_pc]
  · rw [h]

theorem hostWrite_status (addr : Int) (v : Byte) (s : State) : (hostWrite addr v s).status = s.status := by
  obtain ⟨-, h⟩ | ⟨-, h⟩ := hostWrite_cases addr v s
  · rw [h, memWrite_status]
  · rw [h]

theorem hostLoad_pc (addr : Int) (image : List Byte) (s : State) : (hostLoad addr image s).pc = s.pc := by
  induction image generalizing addr s with
  | nil => rfl
  | cons b rest ih => rw [hostLoad, ih, hostWrite_pc]

theorem hostLoad_status (addr : Int) (image : List Byte) (s : State) : (hostLoad addr image s).status = s.status := by
  induction image generalizing addr s with
  | nil => rfl
  | cons b rest ih => rw [hostLoad, ih, hostWrite_status]

/-! ### The first fetch -/

/-- `run` in Ready (R144). -/
theorem hostRun_of_ready {s : State} (h : s.status = .ready) : hostRun s = s.setStatus .running := by
  rw [hostRun, h]

/-- A fetch with all three cells in the range reports nothing (R71). -/
theorem fetched_of_low {s : State} (h : s.pc.toNat < 254) : s.fetched = s := by
  rw [State.fetched, fetchReports_low h, List.append_nil]

/-- A fetch at `pc` = 0 reads the cells 0, 1 and 2 and changes nothing (R71). -/
theorem fetch_of_pc_zero {s : State} (h : s.pc = 0) :
    fetch s = ⟨.byte (s.mem.read 0), .byte (s.mem.read 1), .byte (s.mem.read 2), s⟩ := by
  have h0 : s.pc.toNat = 0 := by rw [h]; rfl
  have hlow : s.pc.toNat < 254 := by omega
  rw [fetch_eq, fetched_of_low hlow, h0, latch_lt (by decide), latch_lt (by decide), latch_lt (by decide)]

/-- Settles O51: loading and `run` keep the `pc` of reset, which is 0, whatever was written to memory. -/
theorem entryPointIsZero : Obligations.EntryPointIsZero := by
  intro image s
  have hready : (hostLoad 0 image State.reset).status = .ready := hostLoad_status 0 image State.reset
  have hs : s = (hostLoad 0 image State.reset).setStatus .running := hostRun_of_ready hready
  have hpc : s.pc = 0 := by
    rw [hs, State.setStatus_pc, hostLoad_pc]
    rfl
  refine ⟨?_, hpc, fetch_of_pc_zero hpc⟩
  rw [hs, State.setStatus_status]

end Sys2Proof.Machine
end

section
/-!
PROOFS. The statements of spec/30_encoding.md about the decoder and the encoder: the opcode byte and the operands of what is
decoded, the round trips, the rows of the opcode table and their aliases.
-/

namespace Sys2Proof

/-! ### The opcode byte and the operands of an instruction -/

/-- What is read back from an instruction's opcode byte, and from latches that begin with its operands, is the instruction: in
each case the byte is put together from its fields, and `decode_opcodeByte` takes it apart again. -/
theorem decode_opcode_self (i : Instr) (opa opb : Latch) (h : i.operands <+: [opa, opb]) :
    decode i.opcode opa opb = i := by
  cases i <;> simp only [Instr.operands, List.cons_prefix_cons] at h <;>
    simp only [Instr.opcode, decode_opcodeByte, h] <;> rfl

/-- A property of every entry of the three tables is one of what is decoded (R54). -/
theorem decode_elim (P : Instr → Prop) (ir : Byte) (opa opb : Latch) (flow : ∀ f, P (decodeFlow f opa))
    (alu : ∀ f, P (decodeAlu f opa opb)) (core : ∀ f, P (decodeCore f opa opb)) : P (decode ir opa opb) := by
  simp only [decode]
  split
  · exact flow _
  · exact alu _
  · exact core _

theorem decodeFlow_opcode (f : Fields) (opa : Latch) :
    (decodeFlow f opa).opcode = opcodeByte f.cnt f.alu true f.bit3 f.sel := by
  obtain ⟨cnt, alu, setspc, b3, sel⟩ := f
  rcases sel_cases sel with rfl | rfl | rfl | rfl | rfl | rfl | rfl | rfl <;> rfl

theorem decodeAlu_opcode (f : Fields) (opa opb : Latch) :
    (decodeAlu f opa opb).opcode = opcodeByte f.cnt true false f.bit3 f.sel := by
  obtain ⟨cnt, alu, setspc, b3, sel⟩ := f
  rcases sel_cases sel with rfl | rfl | rfl | rfl | rfl | rfl | rfl | rfl <;> rfl

theorem decodeCore_opcode (f : Fields) (opa opb : Latch) :
    (decodeCore f opa opb).opcode = opcodeByte f.cnt false false f.bit3 f.sel := by
  obtain ⟨cnt, alu, setspc, b3, sel⟩ := f
  rcases sel_cases sel with rfl | rfl | rfl | rfl | rfl | rfl | rfl | rfl <;> rfl

/-- The encoder writes the opcode byte that was decoded. -/
theorem decode_opcode (ir : Byte) (opa opb : Latch) : (decode ir opa opb).opcode = ir := by
  obtain ⟨cnt, alu, setspc, b3, sel, rfl⟩ : ∃ cnt alu setspc b3 sel, ir = opcodeByte cnt alu setspc b3 sel :=
    ⟨_, _, _, _, _, (opcodeByte_fieldsOf ir).symm⟩
  rw [decode_opcodeByte]
  cases setspc with
  | true => exact decodeFlow_opcode _ opa
  | false =>
    cases alu with
    | true => exact decodeAlu_opcode _ opa opb
    | false => exact decodeCore_opcode _ opa opb

/-- A decoded instruction takes its operands from the latches, the first latch first (R53). -/
theorem decode_operands (ir : Byte) (opa opb : Latch) : (decode ir opa opb).operands <+: [opa, opb] := by
  refine decode_elim (fun i => i.operands <+: [opa, opb]) ir opa opb (fun f => ?_) (fun f => ?_) (fun f => ?_)
  · unfold decodeFlow
    split <;> simp [Instr.operands]
  · unfold decodeAlu
    split <;> simp [Instr.operands]
  · unfold decodeCore
    split <;> simp [Instr.operands]

/-- Only two operands can be out of order (R71). -/
theorem wf_iff (i : Instr) : i.WellFormed ↔ ∀ a b, i.operands = [a, b] → latchesInOrder a b = true := by
  cases i <;> simp [Instr.WellFormed, Instr.wf, Instr.operands]

/-- No instruction names more than two operands (R53). -/
theorem operands_cases (i : Instr) :
    i.operands = [] ∨ (∃ a, i.operands = [a]) ∨ ∃ a b, i.operands = [a, b] := by
  cases i <;> simp [Instr.operands]

/-! ### The latches and the bytes they stand for -/

@[simp] theorem latchAt_nil (k : Nat) : latchAt [] k = .oob := rfl
@[simp] theorem latchAt_cons_zero (b : Byte) (l : List Byte) : latchAt (b :: l) 0 = .byte b := rfl
@[simp] theorem latchAt_cons_succ (b : Byte) (l : List Byte) (k : Nat) : latchAt (b :: l) (k + 1) = latchAt l k := rfl

/-- The bytes of latches in order fill the same latches again, and so do bytes of complete ones with any tail. -/
theorem operands_prefix_latchAt (i : Instr) (tail : List Byte)
    (h : i.WellFormed ∧ tail = [] ∨ i.complete = true) :
    i.operands <+: [latchAt (i.operandBytes ++ tail) 0, latchAt (i.operandBytes ++ tail) 1] := by
  rw [wf_iff] at h
  unfold Instr.complete at h
  unfold Instr.operandBytes
  obtain h0 | ⟨a, h1⟩ | ⟨a, b, h2⟩ := operands_cases i
  · rw [h0]
    exact List.nil_prefix
  · rw [h1] at h ⊢
    cases a <;> simp_all [Latch.bytes]
  · rw [h2] at h ⊢
    cases a <;> cases b <;> simp_all [Latch.bytes, latchesInOrder]

/-- Settles O7: the opcode byte gives the row and its fields, and the latches are filled as they were. -/
theorem decodeOfEncode : Obligations.DecodeOfEncode := by
  refine ⟨fun i hwf => ?_, fun i tail hc => ?_⟩
  · have hops := operands_prefix_latchAt i [] (.inl ⟨hwf, rfl⟩)
    rw [List.append_nil] at hops
    exact congrArg _ (decode_opcode_self i _ _ hops)
  · exact congrArg _ (decode_opcode_self i _ _ (operands_prefix_latchAt i tail (.inr hc)))

/-- Latches filled from a list of bytes are in order, and the list begins with the bytes they stand for. -/
theorem latchAt_inOrder (l : List Byte) : latchesInOrder (latchAt l 0) (latchAt l 1) = true := by
  match l with
  | [] => rfl
  | [_] => rfl
  | _ :: _ :: _ => rfl

theorem bytes_latchAt_prefix (l : List Byte) : [latchAt l 0, latchAt l 1].flatMap Latch.bytes <+: l := by
  match l with
  | [] => exact List.prefix_rfl
  | [_] => exact List.prefix_rfl
  | a :: b :: rest => exact List.prefix_append [a, b] rest

/-- Settles O8: the decoded instruction keeps the opcode byte, and its operands are the first latches. -/
theorem encodeOfDecode : Obligations.EncodeOfDecode := by
  intro bytes i h
  cases bytes with
  | nil => cases h
  | cons ir rest =>
    cases h
    have hops := decode_operands ir (latchAt rest 0) (latchAt rest 1)
    refine ⟨(wf_iff _).2 fun a b hab => ?_, ?_⟩
    · rw [hab, List.cons_prefix_cons, List.cons_prefix_cons] at hops
      obtain ⟨rfl, rfl, -⟩ := hops
      exact latchAt_inOrder rest
    · obtain ⟨tail, htail⟩ := (hops.flatMap Latch.bytes).trans (bytes_latchAt_prefix rest)
      refine ⟨tail, ?_⟩
      rw [encode, decode_opcode, List.cons_append, Instr.operandBytes, htail]

/-! ### Rows -/

/-- Every instruction's opcode byte is in its own row, with its count (Laws/PerInstr.lean). -/
theorem opcodeInRow (i : Instr) : Laws.OpcodeInRow.Statement i := by
  cases i with
  | hlt => exact Laws.OpcodeInRow.hlt ..
  | ldi => exact Laws.OpcodeInRow.ldi ..
  | prn => exact Laws.OpcodeInRow.prn ..
  | push => exact Laws.OpcodeInRow.push ..
  | pop => exact Laws.OpcodeInRow.pop ..
  | add => exact Laws.OpcodeInRow.add ..
  | mul => exact Laws.OpcodeInRow.mul ..
  | cmp => exact Laws.OpcodeInRow.cmp ..
  | call => exact Laws.OpcodeInRow.call ..
  | ret => exact Laws.OpcodeInRow.ret ..
  | jmp => exact Laws.OpcodeInRow.jmp ..
  | jeq => exact Laws.OpcodeInRow.jeq ..
  | jne => exact Laws.OpcodeInRow.jne ..
  | unknownCore0 => exact Laws.OpcodeInRow.unknownCore0 ..
  | unknownCore3 => exact Laws.OpcodeInRow.unknownCore3 ..
  | unknownCore4 => exact Laws.OpcodeInRow.unknownCore4 ..
  | unsupportedAlu1 => exact Laws.OpcodeInRow.unsupportedAlu1 ..
  | unsupportedAlu3 => exact Laws.OpcodeInRow.unsupportedAlu3 ..
  | unsupportedAlu4 => exact Laws.OpcodeInRow.unsupportedAlu4 ..
  | unsupportedAlu5 => exact Laws.OpcodeInRow.unsupportedAlu5 ..
  | unsupportedAlu6 => exact Laws.OpcodeInRow.unsupportedAlu6 ..
  | unknownFlow2 => exact Laws.OpcodeInRow.unknownFlow2 ..
  | unknownFlow3 => exact Laws.OpcodeInRow.unknownFlow3 ..
  | unknownFlow7 => exact Laws.OpcodeInRow.unknownFlow7 ..

/-- The opcode byte that was decoded is in the row of its instruction. -/
theorem decode_inRow (ir : Byte) (opa opb : Latch) :
    ir &&& (decode ir opa opb).rowMask = (decode ir opa opb).rowMatch := by
  have h := (opcodeInRow (decode ir opa opb)).1
  rwa [decode_opcode] at h

/-- The count of what is decoded is the count field of the byte (R50, R51). -/
theorem decode_cnt (ir : Byte) (opa opb : Latch) : (decode ir opa opb).cnt = (fieldsOf ir).cnt := by
  have h := (opcodeInRow (decode ir opa opb)).2
  rw [decode_opcode] at h
  exact h.symm

/-- The mask of a row says whether it is one of the flow class (R57). -/
theorem rowMask_eq (i : Instr) : i.rowMask = if i.unit = .flowControl then 0x17 else 0x37 := by
  cases i <;> rfl

/-- Every row looks at bit 4 (R57). -/
theorem rowMask_bit_four (i : Instr) : i.rowMask.getLsbD 4 = true := by
  rw [rowMask_eq]
  split <;> rfl

/-- Bit 4 of a row's match is set in the flow class alone (R54). -/
theorem rowMatch_bit_four (i : Instr) : i.rowMatch.getLsbD 4 = decide (i.unit = .flowControl) := by
  cases i <;> simp [Instr.rowMatch, Instr.unit]

/-- A byte of a row is in the flow class when the row is (R54). -/
theorem bit_four_of_inRow {ir : Byte} {i : Instr} (h : ir &&& i.rowMask = i.rowMatch) :
    ir.getLsbD 4 = decide (i.unit = .flowControl) := by
  rw [← rowMatch_bit_four, ← h, BitVec.getLsbD_and, rowMask_bit_four, Bool.and_true]

/-- Settles O5: two rows that hold one byte agree on bit 4, so they have one mask, and then one match. -/
theorem everyByteInExactlyOneRow : Obligations.EveryByteInExactlyOneRow := by
  refine ⟨decode_inRow, fun ir i j hi hj => ?_⟩
  have hflow : i.unit = .flowControl ↔ j.unit = .flowControl := by
    rw [← decide_eq_decide, ← bit_four_of_inRow hi, ← bit_four_of_inRow hj]
  have hmask : i.rowMask = j.rowMask := by simp only [rowMask_eq, hflow]
  rw [← hi, ← hj, hmask]

/-! ### The thirteen canonical bytes -/

/-- Whether an instruction is canonical does not depend on its operands (R56). -/
theorem decode_canonical_oob (ir : Byte) (opa opb : Latch) :
    (decode ir opa opb).canonical = (decode ir .oob .oob).canonical := by
  simp only [decode, decodeFlow, decodeAlu, decodeCore]
  split <;> split <;> rfl

/-- Settles O4: the operands do not matter, and the 256 opcode bytes are checked one by one. -/
theorem thirteenCanonicalBytes : Obligations.ThirteenCanonicalBytes := by
  intro ir opa opb
  rw [decode_canonical_oob]
  revert ir
  decide +kernel

/-- Settles O3: the decoder computes. -/
theorem canonicalWordsDecode : Obligations.CanonicalWordsDecode := by
  refine ⟨?_, ?_, ?_, ?_, ?_, ?_, ?_, ?_, ?_, ?_, ?_, ?_, ?_⟩ <;> decide

/-- Settles O6: the count of what is decoded is bits 7 to 6 of the byte, and a list that has a first byte decodes. -/
theorem lengthFromOpcodeAlone : Obligations.LengthFromOpcodeAlone := by
  refine ⟨fun ir opa opb => ?_, fun bytes => ?_⟩
  · rw [Instr.length, decode_cnt, fieldsOf_cnt_toNat]
  · cases bytes <;> simp [decodeBytes]

/-! ### The bytes of one row -/

/-- The instruction of `i`'s row with these opcode bits outside the row's match, and with these latches (R57). -/
def Instr.fill (i : Instr) (cnt : BitVec 2) (b5 b3 : Bool) (opa opb : Latch) : Instr :=
  match i with
  | .hlt _ _ => .hlt cnt b3
  | .ldi _ _ _ _ => .ldi cnt b3 opa opb
  | .prn _ _ _ => .prn cnt b3 opa
  | .push _ _ _ => .push cnt b3 opa
  | .pop _ _ _ => .pop cnt b3 opa
  | .add _ _ _ _ => .add cnt b3 opa opb
  | .mul _ _ _ _ => .mul cnt b3 opa opb
  | .cmp _ _ _ _ => .cmp cnt b3 opa opb
  | .call _ _ _ _ => .call cnt b5 b3 opa
  | .ret _ _ _ => .ret cnt b5 b3
  | .jmp _ _ _ _ => .jmp cnt b5 b3 opa
  | .jeq _ _ _ _ => .jeq cnt b5 b3 opa
  | .jne _ _ _ _ => .jne cnt b5 b3 opa
  | .unknownCore0 _ _ => .unknownCore0 cnt b3
  | .unknownCore3 _ _ => .unknownCore3 cnt b3
  | .unknownCore4 _ _ => .unknownCore4 cnt b3
  | .unsupportedAlu1 _ _ => .unsupportedAlu1 cnt b3
  | .unsupportedAlu3 _ _ => .unsupportedAlu3 cnt b3
  | .unsupportedAlu4 _ _ => .unsupportedAlu4 cnt b3
  | .unsupportedAlu5 _ _ => .unsupportedAlu5 cnt b3
  | .unsupportedAlu6 _ _ => .unsupportedAlu6 cnt b3
  | .unknownFlow2 _ _ _ => .unknownFlow2 cnt b5 b3
  | .unknownFlow3 _ _ _ => .unknownFlow3 cnt b5 b3
  | .unknownFlow7 _ _ _ => .unknownFlow7 cnt b5 b3

theorem fill_operands (i : Instr) (cnt : BitVec 2) (b5 b3 : Bool) (opa opb : Latch) :
    (i.fill cnt b5 b3 opa opb).operands <+: [opa, opb] := by
  cases i <;> simp [Instr.fill, Instr.operands]

/-- Under mask 0x37 a byte loses its count and bit 3 (R57). -/
theorem opcodeByte_and_37 : ∀ (cnt : BitVec 2) (alu setspc b3 : Bool) (sel : BitVec 3),
    opcodeByte cnt alu setspc b3 sel &&& 0x37 = opcodeByte 0 alu setspc false sel := by decide

/-- Under mask 0x17 a byte loses its count and bits 5 and 3 (R57). -/
theorem opcodeByte_and_17 : ∀ (cnt : BitVec 2) (alu setspc b3 : Bool) (sel : BitVec 3),
    opcodeByte cnt alu setspc b3 sel &&& 0x17 = opcodeByte 0 false setspc false sel := by decide

/-- A byte of a core or ALU row is put together from the row's bits and its own count and bit 3. -/
theorem opcodeByte_of_and_37 {ir : Byte} {alu : Bool} {sel : BitVec 3}
    (h : ir &&& 0x37 = opcodeByte 0 alu false false sel) :
    opcodeByte (fieldsOf ir).cnt alu false (ir.getLsbD 3) sel = ir := by
  rw [← opcodeByte_fieldsOf ir, opcodeByte_and_37] at h
  have hf := congrArg fieldsOf h
  simp only [fieldsOf_opcodeByte, Fields.mk.injEq] at hf
  obtain ⟨-, rfl, hs, -, rfl⟩ := hf
  rw [← hs]
  exact opcodeByte_fieldsOf ir

/-- A byte of a flow row is put together from the row's bits and its own count and bits 5 and 3. -/
theorem opcodeByte_of_and_17 {ir : Byte} {sel : BitVec 3} (h : ir &&& 0x17 = opcodeByte 0 false true false sel) :
    opcodeByte (fieldsOf ir).cnt (ir.getLsbD 5) true (ir.getLsbD 3) sel = ir := by
  rw [← opcodeByte_fieldsOf ir, opcodeByte_and_17] at h
  have hf := congrArg fieldsOf h
  simp only [fieldsOf_opcodeByte, Fields.mk.injEq] at hf
  obtain ⟨-, -, hs, -, rfl⟩ := hf
  rw [← hs]
  exact opcodeByte_fieldsOf ir

/-- A byte of `i`'s row is the opcode of the instruction of that row with the byte's other bits. -/
theorem fill_opcode {ir : Byte} {i : Instr} (h : ir &&& i.rowMask = i.rowMatch) (opa opb : Latch) :
    (i.fill (fieldsOf ir).cnt (ir.getLsbD 5) (ir.getLsbD 3) opa opb).opcode = ir := by
  cases i with
  | hlt => exact opcodeByte_of_and_37 h
  | ldi => exact opcodeByte_of_and_37 h
  | prn => exact opcodeByte_of_and_37 h
  | push => exact opcodeByte_of_and_37 h
  | pop => exact opcodeByte_of_and_37 h
  | add => exact opcodeByte_of_and_37 h
  | mul => exact opcodeByte_of_and_37 h
  | cmp => exact opcodeByte_of_and_37 h
  | unknownCore0 => exact opcodeByte_of_and_37 h
  | unknownCore3 => exact opcodeByte_of_and_37 h
  | unknownCore4 => exact opcodeByte_of_and_37 h
  | unsupportedAlu1 => exact opcodeByte_of_and_37 h
  | unsupportedAlu3 => exact opcodeByte_of_and_37 h
  | unsupportedAlu4 => exact opcodeByte_of_and_37 h
  | unsupportedAlu5 => exact opcodeByte_of_and_37 h
  | unsupportedAlu6 => exact opcodeByte_of_and_37 h
  | call => exact opcodeByte_of_and_17 h
  | ret => exact opcodeByte_of_and_17 h
  | jmp => exact opcodeByte_of_and_17 h
  | jeq => exact opcodeByte_of_and_17 h
  | jne => exact opcodeByte_of_and_17 h
  | unknownFlow2 => exact opcodeByte_of_and_17 h
  | unknownFlow3 => exact opcodeByte_of_and_17 h
  | unknownFlow7 => exact opcodeByte_of_and_17 h

/-- A byte decodes to the instruction of any row it lies in (R57, R58). -/
theorem decode_of_inRow {ir : Byte} {i : Instr} (h : ir &&& i.rowMask = i.rowMatch) (opa opb : Latch) :
    decode ir opa opb = i.fill (fieldsOf ir).cnt (ir.getLsbD 5) (ir.getLsbD 3) opa opb := by
  have hself := decode_opcode_self _ opa opb (fill_operands i (fieldsOf ir).cnt (ir.getLsbD 5) (ir.getLsbD 3) opa opb)
  rwa [fill_opcode h] at hself

end Sys2Proof
end

section
/-!
PROOFS. Everything an instruction can do, said once (spec/40_fetch_decode_loop.md R76 to R80): `Acts` is the effect of one that
executes, `refusal` says which check stops one and with what report, and `Runs` puts the two together. `exec_eq_next_iff` ties them
to `exec`; the frames, the invariant and the whole-machine statements are case analyses of `Runs`.
-/

namespace Sys2Proof.Machine

open Sys2Proof

/-! ### The check that stops an instruction -/

/-- The squash of a chain of checks: its report, where a check failed (R78). -/
def Checked.refusal {α : Type} (c : Checked α) : Option (Option Event) :=
  match c with
  | .ok _ => none
  | .squashed e => some e

theorem refusal_eq_some_iff {α : Type} (c : Checked α) (e : Option Event) : c.refusal = some e ↔ c = .squashed e := by
  cases c <;> simp [Checked.refusal]

theorem refusal_eq_none_iff {α : Type} (c : Checked α) : c.refusal = none ↔ ∃ a, c = .ok a := by
  cases c <;> simp [Checked.refusal]

theorem isNone_refusal {α : Type} (c : Checked α) : c.refusal.isNone = c.passed := by
  cases c <;> rfl

/-- Why an instruction does not execute: the report of the check that fails (R78), or of the miss in the tables (R77, R104). -/
def refusal (i : Instr) (s : State) : Option (Option Event) :=
  match i with
  | .hlt _ _ => none
  | .ldi _ _ a b => (regImm a b).refusal
  | .prn _ _ a => (reg a).refusal
  | .push _ _ a => (pushOperands a s).refusal
  | .pop _ _ a => (popOperands a s).refusal
  | .add _ _ a b => (regReg a b).refusal
  | .mul _ _ a b => (regReg a b).refusal
  | .cmp _ _ a b => (regReg a b).refusal
  | .call _ _ _ a => (pushOperands a s).refusal
  | .ret _ _ _ => (incSp s.sp).refusal
  | .jmp _ _ _ a => (reg a).refusal
  | .jeq _ _ _ a => if s.flags.e then (reg a).refusal else none
  | .jne _ _ _ a => if s.flags.e then none else (reg a).refusal
  | .unknownCore0 _ _ | .unknownCore3 _ _ | .unknownCore4 _ _ => some (some (.unknownOpcode i.opcode))
  | .unsupportedAlu1 _ _ | .unsupportedAlu3 _ _ | .unsupportedAlu4 _ _ | .unsupportedAlu5 _ _ | .unsupportedAlu6 _ _ =>
    some (some (.unsupportedALUOperation i.opcode))
  | .unknownFlow2 _ _ _ | .unknownFlow3 _ _ _ | .unknownFlow7 _ _ _ => some (some (.unknownOpcode i.opcode))

/-- An instruction executes when nothing refuses it. -/
theorem executes_eq (i : Instr) (s : State) : executes i s = (refusal i s).isNone := by
  cases i with
  | jeq => cases he : s.flags.e <;> simp [executes, refusal, he, isNone_refusal]
  | jne => cases he : s.flags.e <;> simp [executes, refusal, he, isNone_refusal]
  | _ => simp [executes, refusal, isNone_refusal]

/-- The checks look at registers, memory and E only. -/
theorem refusal_congr {s t : State} (hr : s.regs = t.regs) (hm : s.mem = t.mem) (he : s.flags.e = t.flags.e) (i : Instr) :
    refusal i s = refusal i t := by
  cases i <;>
    simp only [refusal, pushOperands_congr hr, popOperands_congr hr hm, sp_congr hr, he]

/-- The state after an instruction that does not execute (R76, R80, R123): the report, and the loop's advance for a core or ALU
opcode, the end of the run for an ALU selector with no entry. -/
def State.refuse (i : Instr) (e : Option Event) (s : State) : State :=
  match i.unit, i.formatCnt with
  | .flowControl, _ => s.squash e
  | .alu, none => (s.squash e).setStatus .faulted
  | .alu, some _ => advance i.cnt (s.squash e)
  | .coreControl, _ => advance i.cnt (s.squash e)

theorem refuse_flow {i : Instr} (h : i.unit = .flowControl) (e : Option Event) (s : State) :
    s.refuse i e = { s with err := s.err ++ e.toList } := by
  rw [State.refuse, h, squash_eq]

theorem refuse_fatal {i : Instr} (h : i.unit = .alu) (hf : i.formatCnt = none) (e : Option Event) (s : State) :
    s.refuse i e = { s with err := s.err ++ e.toList, status := .faulted } := by
  rw [State.refuse, h, hf, squash_eq]
  rfl

theorem refuse_nonflow {i : Instr} (h : i.unit ≠ .flowControl) (hf : i.unit = .alu → i.formatCnt.isSome = true)
    (e : Option Event) (s : State) :
    s.refuse i e = { s with err := s.err ++ e.toList, pc := nextPc s.pc i.cnt } := by
  rw [State.refuse, squash_eq]
  cases hu : i.unit with
  | flowControl => exact absurd hu h
  | alu =>
    obtain ⟨c, hc⟩ := Option.isSome_iff_exists.1 (hf hu)
    rw [hc]
    rfl
  | coreControl => rfl

/-- Outcomes of equal states. -/
theorem next_congr {u v : State} (h : u = v) : (.next u : Outcome) = .next v := congrArg _ h

theorem next_advance_congr (c : BitVec 2) {u v : State} (h : u = v) :
    (.next (advance c u) : Outcome) = .next (advance c v) := by rw [h]

theorem orSquash_of_refusal {α : Type} {c : Checked α} {e : Option Event} (h : c.refusal = some e) (s : State)
    (k : α → State) : c.orSquash s k = s.squash e := by
  rw [(refusal_eq_some_iff c e).1 h, orSquash_squashed]

/-- What a refused instruction does (R77, R80, R104). -/
theorem exec_of_refusal {i : Instr} {s : State} {e : Option Event} (h : refusal i s = some e) :
    exec i s = .next (s.refuse i e) := by
  cases i with
  | hlt => cases h
  | ldi c x a b => exact next_advance_congr c (orSquash_of_refusal h s _)
  | prn c x a => exact next_advance_congr c (orSquash_of_refusal h s _)
  | push c x a => exact next_advance_congr c (orSquash_of_refusal h s _)
  | pop c x a => exact next_advance_congr c (orSquash_of_refusal h s _)
  | add c x a b => exact next_advance_congr c (orSquash_of_refusal h s _)
  | mul c x a b => exact next_advance_congr c (orSquash_of_refusal h s _)
  | cmp c x a b => exact next_advance_congr c (orSquash_of_refusal h s _)
  | call c y x a => exact next_congr (orSquash_of_refusal h s _)
  | ret c y x => exact next_congr (orSquash_of_refusal h s _)
  | jmp c y x a => exact next_congr (orSquash_of_refusal h s _)
  | jeq c y x a =>
    cases he : s.flags.e with
    | false => simp [refusal, he] at h
    | true =>
      rw [refusal, he] at h
      exact (next_congr (if_pos he)).trans (next_congr (orSquash_of_refusal h s _))
  | jne c y x a =>
    cases he : s.flags.e with
    | true => simp [refusal, he] at h
    | false =>
      rw [refusal, he] at h
      exact (next_congr (if_neg (ne_true_of_eq_false he))).trans
        (next_congr (orSquash_of_refusal h s _))
  | unknownCore0 => cases h; rfl
  | unknownCore3 => cases h; rfl
  | unknownCore4 => cases h; rfl
  | unsupportedAlu1 => cases h; rfl
  | unsupportedAlu3 => cases h; rfl
  | unsupportedAlu4 => cases h; rfl
  | unsupportedAlu5 => cases h; rfl
  | unsupportedAlu6 => cases h; rfl
  | unknownFlow2 => cases h; rfl
  | unknownFlow3 => cases h; rfl
  | unknownFlow7 => cases h; rfl

/-! ### The effect of an instruction that executes -/

/-- Where POP's increment starts: at the loaded byte for POP R7, at the stack pointer else (R94, decision D15). -/
def State.popBase (s : State) (r : RegIdx) : Byte := if r = 7 then s.load s.sp else s.sp

/-- `Acts s i t`: instruction `i` passes its checks in `s` and leads to `t`; one case per effect (R90 to R114). -/
inductive Acts (s : State) : Instr → State → Prop where
  | hlt (c : BitVec 2) (x : Bool) : Acts s (.hlt c x) { s with status := .halted, pc := nextPc s.pc c }
  | ldi (c : BitVec 2) (x : Bool) (r : RegIdx) (v : Byte) :
    Acts s (.ldi c x (regLatch r) (.byte v)) { s with regs := s.regs.set r.val v, pc := nextPc s.pc c }
  | prn (c : BitVec 2) (x : Bool) (r : RegIdx) :
    Acts s (.prn c x (regLatch r)) { s with out := s.out ++ [s.getReg r], pc := nextPc s.pc c }
  | push (c : BitVec 2) (x : Bool) (r : RegIdx) (h : s.sp ≠ 0#8) :
    Acts s (.push c x (regLatch r))
      { s with
        regs := s.regs.set 7 (s.sp - 1#8)
        mem := s.mem.write (s.sp - 1#8).toNat ((s.setSp (s.sp - 1#8)).getReg r)
        pc := nextPc s.pc c }
  | pop (c : BitVec 2) (x : Bool) (r : RegIdx) (h : s.popBase r ≠ 255#8) :
    Acts s (.pop c x (regLatch r))
      { s with regs := (s.regs.set r.val (s.load s.sp)).set 7 (s.popBase r + 1#8), pc := nextPc s.pc c }
  | add (c : BitVec 2) (x : Bool) (a b : RegIdx) :
    Acts s (.add c x (regLatch a) (regLatch b))
      { s with
        regs := s.regs.set a.val (BitVec.ofNat 8 ((s.getReg a).toNat + (s.getReg b).toNat))
        pc := nextPc s.pc c }
  | mul (c : BitVec 2) (x : Bool) (a b : RegIdx) :
    Acts s (.mul c x (regLatch a) (regLatch b))
      { s with
        regs := s.regs.set a.val (BitVec.ofNat 8 ((s.getReg a).toNat * (s.getReg b).toNat))
        pc := nextPc s.pc c }
  | cmp (c : BitVec 2) (x : Bool) (a b : RegIdx) :
    Acts s (.cmp c x (regLatch a) (regLatch b))
      { s with flags := compareFlags (s.getReg a) (s.getReg b), pc := nextPc s.pc c }
  | call (c : BitVec 2) (y x : Bool) (r : RegIdx) (h : s.sp ≠ 0#8) :
    Acts s (.call c y x (regLatch r))
      { s with
        regs := s.regs.set 7 (s.sp - 1#8)
        mem := s.mem.write (s.sp - 1#8).toNat (returnAddress s.pc)
        pc := zext9 ((s.setSp (s.sp - 1#8)).getReg r) }
  | ret (c : BitVec 2) (y x : Bool) (h : s.sp ≠ 255#8) :
    Acts s (.ret c y x) { s with regs := s.regs.set 7 (s.sp + 1#8), pc := zext9 (s.load s.sp) }
  | jmp (c : BitVec 2) (y x : Bool) (r : RegIdx) :
    Acts s (.jmp c y x (regLatch r)) { s with pc := zext9 (s.getReg r) }
  | jeqTaken (c : BitVec 2) (y x : Bool) (r : RegIdx) (h : s.flags.e = true) :
    Acts s (.jeq c y x (regLatch r)) { s with pc := zext9 (s.getReg r) }
  | jeqNotTaken (c : BitVec 2) (y x : Bool) (a : Latch) (h : s.flags.e = false) :
    Acts s (.jeq c y x a) { s with pc := nextPc s.pc c }
  | jneTaken (c : BitVec 2) (y x : Bool) (r : RegIdx) (h : s.flags.e = false) :
    Acts s (.jne c y x (regLatch r)) { s with pc := zext9 (s.getReg r) }
  | jneNotTaken (c : BitVec 2) (y x : Bool) (a : Latch) (h : s.flags.e = true) :
    Acts s (.jne c y x a) { s with pc := nextPc s.pc c }

theorem orSquash_of_eq_ok {α : Type} {c : Checked α} {a : α} (h : c = .ok a) (s : State) (k : α → State) :
    c.orSquash s k = k a := by
  rw [h, orSquash_ok]

theorem regImm_regLatch (r : RegIdx) (v : Byte) : regImm (regLatch r) (.byte v) = .ok (r, v) :=
  (regImm_eq_ok_iff _ _ _).2 ⟨rfl, rfl⟩

theorem regReg_regLatch (a b : RegIdx) : regReg (regLatch a) (regLatch b) = .ok (a, b) :=
  (regReg_eq_ok_iff _ _ _).2 ⟨rfl, rfl⟩

theorem pushOperands_of_sp {s : State} (h : s.sp ≠ 0#8) (r : RegIdx) :
    pushOperands (regLatch r) s = .ok (r, s.sp - 1#8) :=
  (pushOperands_eq_ok_iff _ _ _).2 ⟨rfl, h, rfl⟩

theorem popOperands_of_popBase {s : State} {r : RegIdx} (h : s.popBase r ≠ 255#8) :
    popOperands (regLatch r) s = .ok (r, s.load s.sp, s.popBase r + 1#8) :=
  (popOperands_eq_ok_iff _ _ _).2 ⟨rfl, rfl, h, rfl⟩

/-- The effects are those of `exec`. -/
theorem exec_of_acts {i : Instr} {s t : State} (h : Acts s i t) : exec i s = .next t := by
  cases h with
  | hlt c x => rfl
  | ldi c x r v =>
    exact next_advance_congr c (orSquash_of_eq_ok (regImm_regLatch r v) s _)
  | prn c x r => exact next_advance_congr c (orSquash_of_eq_ok (reg_regLatch r) s _)
  | push c x r h =>
    have hpush := orSquash_of_eq_ok (pushOperands_of_sp h r) s fun p => pushReg p.1 p.2 s
    exact next_advance_congr c (hpush.trans (pushReg_eq r _ s))
  | pop c x r h =>
    exact next_advance_congr c (orSquash_of_eq_ok (popOperands_of_popBase h) s _)
  | add c x a b =>
    exact next_advance_congr c (orSquash_of_eq_ok (regReg_regLatch a b) s _)
  | mul c x a b =>
    exact next_advance_congr c (orSquash_of_eq_ok (regReg_regLatch a b) s _)
  | cmp c x a b =>
    exact next_advance_congr c (orSquash_of_eq_ok (regReg_regLatch a b) s _)
  | call c y x r h =>
    have hcall := orSquash_of_eq_ok (pushOperands_of_sp h r) s fun p => callReg p.1 p.2 s
    exact next_congr (hcall.trans (callReg_eq r _ s))
  | ret c y x h => exact next_congr (orSquash_of_eq_ok (incSp_lt h) s _)
  | jmp c y x r => exact next_congr (orSquash_of_eq_ok (reg_regLatch r) s _)
  | jeqTaken c y x r h =>
    exact (next_congr (if_pos h)).trans (next_congr (orSquash_of_eq_ok (reg_regLatch r) s _))
  | jeqNotTaken c y x a h => exact next_congr (if_neg (ne_true_of_eq_false h))
  | jneTaken c y x r h =>
    exact (next_congr (if_neg (ne_true_of_eq_false h))).trans
      (next_congr (orSquash_of_eq_ok (reg_regLatch r) s _))
  | jneNotTaken c y x a h => exact next_congr (if_pos h)

theorem refusal_reg_eq_none_iff (op : Latch) : (reg op).refusal = none ↔ ∃ r, op = regLatch r := by
  simp only [refusal_eq_none_iff, reg_eq_ok_iff]

/-- What no check refuses has its effect. -/
theorem exists_acts {i : Instr} {s : State} (h : refusal i s = none) : ∃ t, Acts s i t := by
  cases i with
  | hlt c x => exact ⟨_, .hlt c x⟩
  | ldi c x a b =>
    obtain ⟨p, hp⟩ := (refusal_eq_none_iff _).1 h
    obtain ⟨rfl, rfl⟩ := (regImm_eq_ok_iff a b p).1 hp
    exact ⟨_, .ldi c x p.1 p.2⟩
  | prn c x a =>
    obtain ⟨r, rfl⟩ := (refusal_reg_eq_none_iff a).1 h
    exact ⟨_, .prn c x r⟩
  | push c x a =>
    obtain ⟨p, hp⟩ := (refusal_eq_none_iff _).1 h
    obtain ⟨rfl, hsp, -⟩ := (pushOperands_eq_ok_iff a s p).1 hp
    exact ⟨_, .push c x p.1 hsp⟩
  | pop c x a =>
    obtain ⟨p, hp⟩ := (refusal_eq_none_iff _).1 h
    obtain ⟨rfl, -, hbase, -⟩ := (popOperands_eq_ok_iff a s p).1 hp
    exact ⟨_, .pop c x p.1 hbase⟩
  | add c x a b =>
    obtain ⟨p, hp⟩ := (refusal_eq_none_iff _).1 h
    obtain ⟨rfl, rfl⟩ := (regReg_eq_ok_iff a b p).1 hp
    exact ⟨_, .add c x p.1 p.2⟩
  | mul c x a b =>
    obtain ⟨p, hp⟩ := (refusal_eq_none_iff _).1 h
    obtain ⟨rfl, rfl⟩ := (regReg_eq_ok_iff a b p).1 hp
    exact ⟨_, .mul c x p.1 p.2⟩
  | cmp c x a b =>
    obtain ⟨p, hp⟩ := (refusal_eq_none_iff _).1 h
    obtain ⟨rfl, rfl⟩ := (regReg_eq_ok_iff a b p).1 hp
    exact ⟨_, .cmp c x p.1 p.2⟩
  | call c y x a =>
    obtain ⟨p, hp⟩ := (refusal_eq_none_iff _).1 h
    obtain ⟨rfl, hsp, -⟩ := (pushOperands_eq_ok_iff a s p).1 hp
    exact ⟨_, .call c y x p.1 hsp⟩
  | ret c y x =>
    obtain ⟨n, hn⟩ := (refusal_eq_none_iff _).1 h
    exact ⟨_, .ret c y x ((incSp_eq_ok_iff s.sp n).1 hn).1⟩
  | jmp c y x a =>
    obtain ⟨r, rfl⟩ := (refusal_reg_eq_none_iff a).1 h
    exact ⟨_, .jmp c y x r⟩
  | jeq c y x a =>
    cases he : s.flags.e with
    | false => exact ⟨_, .jeqNotTaken c y x a he⟩
    | true =>
      rw [refusal, he] at h
      obtain ⟨r, rfl⟩ := (refusal_reg_eq_none_iff a).1 h
      exact ⟨_, .jeqTaken c y x r he⟩
  | jne c y x a =>
    cases he : s.flags.e with
    | true => exact ⟨_, .jneNotTaken c y x a he⟩
    | false =>
      rw [refusal, he] at h
      obtain ⟨r, rfl⟩ := (refusal_reg_eq_none_iff a).1 h
      exact ⟨_, .jneTaken c y x r he⟩
  | _ => cases h

/-- An effect is that of an instruction no check refuses. -/
theorem refusal_of_acts {i : Instr} {s t : State} (h : Acts s i t) : refusal i s = none := by
  cases h with
  | hlt => rfl
  | ldi c x r v => exact (refusal_eq_none_iff _).2 ⟨_, regImm_regLatch r v⟩
  | push c x r h => exact (refusal_eq_none_iff _).2 ⟨_, pushOperands_of_sp h r⟩
  | pop c x r h => exact (refusal_eq_none_iff _).2 ⟨_, popOperands_of_popBase h⟩
  | add c x a b => exact (refusal_eq_none_iff _).2 ⟨_, regReg_regLatch a b⟩
  | mul c x a b => exact (refusal_eq_none_iff _).2 ⟨_, regReg_regLatch a b⟩
  | cmp c x a b => exact (refusal_eq_none_iff _).2 ⟨_, regReg_regLatch a b⟩
  | call c y x r h => exact (refusal_eq_none_iff _).2 ⟨_, pushOperands_of_sp h r⟩
  | ret c y x h => exact (refusal_eq_none_iff _).2 ⟨_, incSp_lt h⟩
  | prn c x r => exact (refusal_reg_eq_none_iff _).2 ⟨r, rfl⟩
  | jmp c y x r => exact (refusal_reg_eq_none_iff _).2 ⟨r, rfl⟩
  | jeqTaken c y x r h => exact (if_pos h).trans ((refusal_reg_eq_none_iff _).2 ⟨r, rfl⟩)
  | jeqNotTaken c y x a h => exact if_neg (ne_true_of_eq_false h)
  | jneTaken c y x r h => exact (if_neg (ne_true_of_eq_false h)).trans ((refusal_reg_eq_none_iff _).2 ⟨r, rfl⟩)
  | jneNotTaken c y x a h => exact if_pos h

/-! ### Everything an instruction can do -/

/-- `Runs s i t`: running `i` in `s` gives `t`. Either it executes, or a check refuses it: then only its report and, but for a flow
opcode, the loop's advance are left (R76, R80), or the run ends (R123). -/
inductive Runs (s : State) (i : Instr) : State → Prop where
  | acts {t : State} (h : Acts s i t) : Runs s i t
  | squashed {e : Option Event} (h : refusal i s = some e) (hu : i.unit ≠ .flowControl)
    (hf : i.unit = .alu → i.formatCnt.isSome = true) :
    Runs s i { s with err := s.err ++ e.toList, pc := nextPc s.pc i.cnt }
  | stays {e : Option Event} (h : refusal i s = some e) (hu : i.unit = .flowControl) :
    Runs s i { s with err := s.err ++ e.toList }
  | fatal {e : Option Event} (h : refusal i s = some e) (hu : i.unit = .alu) (hf : i.formatCnt = none) :
    Runs s i { s with err := s.err ++ e.toList, status := .faulted }

theorem exec_of_runs {i : Instr} {s t : State} (h : Runs s i t) : exec i s = .next t := by
  cases h with
  | acts h => exact exec_of_acts h
  | squashed h hu hf => rw [exec_of_refusal h, refuse_nonflow hu hf]
  | stays h hu => rw [exec_of_refusal h, refuse_flow hu]
  | fatal h hu hf => rw [exec_of_refusal h, refuse_fatal hu hf]

/-- Every instruction runs in every state. -/
theorem exists_runs (i : Instr) (s : State) : ∃ t, Runs s i t := by
  cases h : refusal i s with
  | none =>
    obtain ⟨t, ht⟩ := exists_acts h
    exact ⟨t, .acts ht⟩
  | some e =>
    by_cases hu : i.unit = .flowControl
    · exact ⟨_, .stays h hu⟩
    · by_cases hf : i.unit = .alu ∧ i.formatCnt = none
      · exact ⟨_, .fatal h hf.1 hf.2⟩
      · exact ⟨_, .squashed h hu fun ha => Option.isSome_iff_ne_none.2 fun hn => hf ⟨ha, hn⟩⟩

/-- `Runs` is `exec`. -/
theorem exec_eq_next_iff (i : Instr) (s t : State) : exec i s = .next t ↔ Runs s i t := by
  refine ⟨fun h => ?_, exec_of_runs⟩
  obtain ⟨u, hu⟩ := exists_runs i s
  have hut := (exec_of_runs hu).symm.trans h
  cases hut
  exact hu

end Sys2Proof.Machine
end

section
/-!
PROOFS. What a step can do, in one relation over `Runs`, and the statements about every step (spec/10_state.md section 8,
spec/40_fetch_decode_loop.md sections 1 and 8): the invariant and the two streams.
-/

namespace Sys2Proof.Machine

open Sys2Proof

/-! ### Everything a step can do -/

/-- The instruction the next cycle decodes, where `pc` is below 256 (R71, R73). -/
def State.nextInstr (s : State) : Instr :=
  decode (s.mem.read s.pc.toNat) (s.latch (s.pc.toNat + 1)) (s.latch (s.pc.toNat + 2))

/-- `Steps s t`: a step from `s` leads to `t`; nothing outside Running, only fetch's reports where the opcode is out of bounds,
else the run of the decoded instruction (R70, R72). -/
inductive Steps (s : State) : State → Prop where
  | idle (h : s.status ≠ .running) : Steps s s
  | oob (h : s.status = .running) (h0 : 256 ≤ s.pc.toNat) : Steps s s.fetched
  | cycle (h : s.status = .running) (h0 : s.pc.toNat < 256) {t : State} (hr : Runs s.fetched s.nextInstr t) : Steps s t

theorem step_of_steps {s t : State} (h : Steps s t) : step s = .next t := by
  cases h with
  | idle h => exact step_of_not_running h
  | oob h h0 => exact step_of_oob h h0
  | cycle h h0 hr => exact (step_of_opcode h h0).trans (exec_of_runs hr)

theorem exists_steps (s : State) : ∃ t, Steps s t := by
  by_cases h : s.status = .running
  · by_cases h0 : s.pc.toNat < 256
    · obtain ⟨t, ht⟩ := exists_runs s.nextInstr s.fetched
      exact ⟨t, .cycle h h0 ht⟩
    · exact ⟨_, .oob h (Nat.not_lt.1 h0)⟩
  · exact ⟨s, .idle h⟩

/-- `Steps` is `step`. -/
theorem step_eq_next_iff (s t : State) : step s = .next t ↔ Steps s t := by
  refine ⟨fun h => ?_, step_of_steps⟩
  obtain ⟨u, hu⟩ := exists_steps s
  have hut := (step_of_steps hu).symm.trans h
  cases hut
  exact hu

/-- Settles O32: the two relations are total. -/
theorem everyStepHasNextState : Obligations.EveryStepHasNextState := by
  refine ⟨fun s => ?_, fun i s => ?_⟩
  · obtain ⟨t, ht⟩ := exists_steps s
    exact ⟨t, step_of_steps ht⟩
  · obtain ⟨t, ht⟩ := exists_runs i s
    exact ⟨t, exec_of_runs ht⟩

/-! ### The invariant -/

/-- The advance from a `pc` at which an opcode can be fetched stays below 260 (R14). -/
theorem nextPc_le {pc : PcWord} (h : pc.toNat ≤ 255) (cnt : BitVec 2) : (nextPc pc cnt).toNat ≤ 259 := by
  have hcnt := cnt.isLt
  rw [nextPc_toNat (by omega)]
  omega

/-- A jump's target is a byte (R116). -/
theorem zext9_le_255 (v : Byte) : (zext9 v).toNat ≤ 255 := by
  rw [zext9_toNat]
  exact Nat.le_of_lt_succ v.isLt

theorem atMostOne_compareFlags (x y : Byte) : (compareFlags x y).atMostOne = true :=
  (Bool.and_eq_true_iff.1 (compareFlags_exactlyOne x y)).1

/-- An effect keeps the canonical form, leaves `pc` in its bounds and at most one flag set (R24). -/
theorem acts_inv {i : Instr} {s t : State} (h : Acts s i t) (hi : s.Inv) (h0 : s.pc.toNat ≤ 255) : t.Inv := by
  obtain ⟨hmem, -, hflags⟩ := hi
  have hjump (v : Byte) : (zext9 v).toNat ≤ 259 := Nat.le_trans (zext9_le_255 v) (by decide)
  cases h with
  | push => exact ⟨Memory.wf_write hmem (byte_lt_memSize _) _, nextPc_le h0 _, hflags⟩
  | call => exact ⟨Memory.wf_write hmem (byte_lt_memSize _) _, hjump _, hflags⟩
  | cmp => exact ⟨hmem, nextPc_le h0 _, atMostOne_compareFlags _ _⟩
  | ret | jmp | jeqTaken | jneTaken => exact ⟨hmem, hjump _, hflags⟩
  | _ => exact ⟨hmem, nextPc_le h0 _, hflags⟩

/-- So does a refused instruction: only ERR, `status` and the advance are left. -/
theorem runs_inv {i : Instr} {s t : State} (h : Runs s i t) (hi : s.Inv) (h0 : s.pc.toNat ≤ 255) : t.Inv := by
  obtain ⟨hmem, hpc, hflags⟩ := id hi
  cases h with
  | acts h => exact acts_inv h hi h0
  | squashed => exact ⟨hmem, nextPc_le h0 _, hflags⟩
  | stays => exact ⟨hmem, hpc, hflags⟩
  | fatal => exact ⟨hmem, hpc, hflags⟩

/-- Settles O46: fetch changes nothing of the three properties, and an instruction runs only from a `pc` below 256. -/
theorem stepKeepsInvariant : Obligations.StepKeepsInvariant := by
  intro s t hi h
  cases (step_eq_next_iff s t).1 h with
  | idle => exact hi
  | oob => exact hi
  | cycle _ h0 hr => exact runs_inv hr hi (Nat.le_of_lt_succ h0)

/-! ### The streams -/

/-- An effect that sends nothing out is the same whatever was sent before. -/
theorem exists_sent_of_silent {i : Instr} {s t : State}
    (h : ∀ e o, Acts { s with err := e, out := o } i { t with err := e, out := o }) :
    ∃ sent : List Byte, ∀ e o, Acts { s with err := e, out := o } i { t with err := e, out := o ++ sent } :=
  ⟨[], fun e o => by rw [List.append_nil]; exact h e o⟩

/-- An effect does not read the streams: with any earlier contents it is the same and sends the same bytes. -/
theorem acts_streams {i : Instr} {s t : State} (h : Acts s i t) :
    ∃ sent : List Byte, ∀ e o, Acts { s with err := e, out := o } i { t with err := e, out := o ++ sent } := by
  cases h with
  | prn c x r => exact ⟨[s.getReg r], fun _ _ => .prn c x r⟩
  | hlt c x => exact exists_sent_of_silent fun _ _ => .hlt c x
  | ldi c x r v => exact exists_sent_of_silent fun _ _ => .ldi c x r v
  | push c x r h => exact exists_sent_of_silent fun _ _ => .push c x r h
  | pop c x r h => exact exists_sent_of_silent fun _ _ => .pop c x r h
  | add c x a b => exact exists_sent_of_silent fun _ _ => .add c x a b
  | mul c x a b => exact exists_sent_of_silent fun _ _ => .mul c x a b
  | cmp c x a b => exact exists_sent_of_silent fun _ _ => .cmp c x a b
  | call c y x r h => exact exists_sent_of_silent fun _ _ => .call c y x r h
  | ret c y x h => exact exists_sent_of_silent fun _ _ => .ret c y x h
  | jmp c y x r => exact exists_sent_of_silent fun _ _ => .jmp c y x r
  | jeqTaken c y x r h => exact exists_sent_of_silent fun _ _ => .jeqTaken c y x r h
  | jeqNotTaken c y x a h => exact exists_sent_of_silent fun _ _ => .jeqNotTaken c y x a h
  | jneTaken c y x r h => exact exists_sent_of_silent fun _ _ => .jneTaken c y x r h
  | jneNotTaken c y x a h => exact exists_sent_of_silent fun _ _ => .jneNotTaken c y x a h

/-- `StreamsAppended R s t`: relation `R` leads from `s` to `t` by appending the same to the streams whatever they hold. -/
def StreamsAppended (R : State → State → Prop) (s t : State) : Prop :=
  ∃ (sent : List Byte) (reported : List Event), ∀ e o,
    R { s with err := e, out := o } { t with err := e ++ reported, out := o ++ sent }

/-- Nor does a run of an instruction: what it sends and reports does not depend on what was sent before. -/
theorem runs_streams {i : Instr} {s t : State} (h : Runs s i t) : StreamsAppended (fun u v => Runs u i v) s t := by
  have hrefusal (e : List Event) (o : List Byte) : refusal i { s with err := e, out := o } = refusal i s :=
    refusal_congr rfl rfl rfl i
  cases h with
  | acts h =>
    obtain ⟨sent, hsent⟩ := acts_streams h
    refine ⟨sent, [], fun e o => ?_⟩
    rw [List.append_nil]
    exact .acts (hsent e o)
  | @squashed r h hu hf =>
    refine ⟨[], r.toList, fun e o => ?_⟩
    rw [List.append_nil]
    exact .squashed ((hrefusal e o).trans h) hu hf
  | @stays r h hu =>
    refine ⟨[], r.toList, fun e o => ?_⟩
    rw [List.append_nil]
    exact .stays ((hrefusal e o).trans h) hu
  | @fatal r h hu hf =>
    refine ⟨[], r.toList, fun e o => ?_⟩
    rw [List.append_nil]
    exact .fatal ((hrefusal e o).trans h) hu hf

/-- Nor does a step. -/
theorem steps_streams {s t : State} (h : Steps s t) : StreamsAppended Steps s t := by
  cases h with
  | idle h =>
    refine ⟨[], [], fun e o => ?_⟩
    rw [List.append_nil, List.append_nil]
    exact .idle h
  | oob h h0 =>
    refine ⟨[], fetchReports s.pc, fun e o => ?_⟩
    rw [List.append_nil]
    exact .oob h h0
  | cycle h h0 hr =>
    obtain ⟨sent, reported, hall⟩ := runs_streams hr
    refine ⟨sent, fetchReports s.pc ++ reported, fun e o => ?_⟩
    rw [← List.append_assoc]
    exact Steps.cycle (s := { s with err := e, out := o }) h h0 (hall (e ++ fetchReports s.pc) o)

/-- One more step of a run of the machine. -/
theorem run_succ {s t : State} (h : step s = .next t) (n : Nat) :
    Host.Core.run core (n + 1) s = Host.Core.run core n t := by
  have hcore : core.step s = .next t := h
  simp only [Host.Core.run, hcore]

/-- Settles O55, by induction on the number of steps: each step appends its own part, whatever stands before it. -/
theorem sentStreamsDoNotInfluence : Obligations.SentStreamsDoNotInfluence := by
  intro n
  induction n with
  | zero =>
    intro s
    refine ⟨s, [], [], fun e o => ?_⟩
    rw [List.append_nil, List.append_nil]
    rfl
  | succ n ih =>
    intro s
    obtain ⟨u, hu⟩ := exists_steps s
    obtain ⟨sent, reported, hsteps⟩ := steps_streams hu
    obtain ⟨t, sent', reported', hrun⟩ := ih u
    refine ⟨t, sent ++ sent', reported ++ reported', fun e o => ?_⟩
    rw [run_succ (step_of_steps (hsteps e o)), hrun, List.append_assoc, List.append_assoc]

end Sys2Proof.Machine
end

section
/-!
PROOFS. The livelocks of spec/40_fetch_decode_loop.md section 8: a running machine whose opcode is in memory is livelocked exactly
when a check refuses a flow instruction, since every other cycle moves `pc`, ends the run or executes; and the listed conditions say
just that of the bytes at `pc`.
-/

namespace Sys2Proof.Machine

open Sys2Proof

/-! ### When a check refuses a flow instruction -/

theorem isSome_refusal_reg_byte (b : Byte) : (reg (.byte b)).refusal.isSome = decide (7 < b.toNat) := by
  by_cases h : b.toNat < 8
  · rw [reg_byte_lt h, decide_eq_false (by omega)]
    rfl
  · rw [reg_byte_ge (Nat.not_lt.1 h), decide_eq_true (by omega)]
    rfl

/-- The operand in the cell after `pc` names no register: past the end of memory, or a byte above 7 (R53, R79). -/
theorem isSome_refusal_reg_latch {s : State} (h0 : s.pc.toNat < 256) :
    (reg (s.latch (s.pc.toNat + 1))).refusal.isSome =
      (decide (s.pc.toNat = 255) || decide (7 < (s.mem.read (s.pc.toNat + 1)).toNat)) := by
  by_cases h : s.pc.toNat = 255
  · rw [latch_ge (by omega), decide_eq_true h, Bool.true_or]
    rfl
  · rw [latch_lt (by omega), decide_eq_false h, Bool.false_or, isSome_refusal_reg_byte]

theorem isSome_refusal_pushOperands (opa : Latch) (s : State) :
    (pushOperands opa s).refusal.isSome = ((reg opa).refusal.isSome || s.sp == 0#8) := by
  by_cases h : s.sp = 0#8
  · cases hr : reg opa <;> simp [pushOperands, hr, h, decSp_zero, Checked.refusal]
  · cases hr : reg opa <;> simp [pushOperands, hr, h, decSp_pos, Checked.refusal]

theorem isSome_refusal_incSp (b : Byte) : (incSp b).refusal.isSome = (b == 255#8) := by
  by_cases h : b = 255#8
  · rw [h]
    rfl
  · rw [incSp_lt h, beq_false_of_ne h]
    rfl

/-! ### The listed conditions -/

/-- The bits that select in the flow class are the row's match in that class, and no row's match outside it (R57). -/
theorem flowBits_eq_rowMatch (ir : Byte) (opa opb : Latch) (h : (decode ir opa opb).unit = .flowControl) :
    flowBits ir = (decode ir opa opb).rowMatch := by
  rw [← decode_inRow, rowMask_eq, if_pos h, flowBits]

theorem flowBits_ne_of_nonflow {ir : Byte} {opa opb : Latch} (h : (decode ir opa opb).unit ≠ .flowControl) {m : Byte}
    (hm : m.getLsbD 4 = true) : (flowBits ir == m) = false := by
  refine beq_false_of_ne fun he => ?_
  have hbit : ir.getLsbD 4 = true := by
    rw [← he, flowBits, BitVec.getLsbD_and, Bool.and_eq_true] at hm
    exact hm.1
  rw [bit_four_of_inRow (decode_inRow ir opa opb), decide_eq_false h] at hbit
  cases hbit

/-- Outside the flow class none of the conditions on the byte at `pc` holds. -/
theorem livelockCondition_of_nonflow {s : State} (h0 : s.pc.toNat < 256) (h : s.nextInstr.unit ≠ .flowControl) :
    s.livelockCondition = false := by
  have hne {m : Byte} := flowBits_ne_of_nonflow (m := m) h
  simp [State.livelockCondition, hne, h0]

/-- In the flow class the conditions are the refusals of the instruction the byte decodes to (R79, R77, R93, R94). -/
theorem livelockCondition_of_flow {s : State} (h0 : s.pc.toNat < 256) (h : s.nextInstr.unit = .flowControl) :
    s.livelockCondition = (refusal s.nextInstr s).isSome := by
  have hbits := flowBits_eq_rowMatch (s.mem.read s.pc.toNat) (s.latch (s.pc.toNat + 1)) (s.latch (s.pc.toNat + 2)) h
  have hops := decode_operands (s.mem.read s.pc.toNat) (s.latch (s.pc.toNat + 1)) (s.latch (s.pc.toNat + 2))
  have hbad := isSome_refusal_reg_latch h0
  change flowBits _ = s.nextInstr.rowMatch at hbits
  change s.nextInstr.operands <+: _ at hops
  unfold State.livelockCondition
  generalize s.nextInstr = i at *
  simp only [hbits, ← hbad, decide_eq_false (Nat.not_le.2 h0)]
  cases i with
  | call c y x a =>
    obtain rfl : a = _ := (List.cons_prefix_cons.1 hops).1
    simp [Instr.rowMatch, refusal, isSome_refusal_pushOperands]
  | ret c y x => simp [Instr.rowMatch, refusal, isSome_refusal_incSp]
  | jmp c y x a =>
    obtain rfl : a = _ := (List.cons_prefix_cons.1 hops).1
    simp [Instr.rowMatch, refusal]
  | jeq c y x a =>
    obtain rfl : a = _ := (List.cons_prefix_cons.1 hops).1
    cases he : s.flags.e <;> simp [Instr.rowMatch, refusal, he]
  | jne c y x a =>
    obtain rfl : a = _ := (List.cons_prefix_cons.1 hops).1
    cases he : s.flags.e <;> simp [Instr.rowMatch, refusal, he]
  | unknownFlow2 | unknownFlow3 | unknownFlow7 => simp [Instr.rowMatch, refusal]
  | _ => cases h

/-- With the opcode in memory, the conditions of R83 hold exactly where a flow instruction is refused. -/
theorem livelockCondition_iff {s : State} (h0 : s.pc.toNat < 256) :
    s.livelockCondition = true ↔ s.nextInstr.unit = .flowControl ∧ ∃ e, refusal s.nextInstr s = some e := by
  by_cases h : s.nextInstr.unit = .flowControl
  · rw [livelockCondition_of_flow h0 h, Option.isSome_iff_exists]
    exact ⟨fun he => ⟨h, he⟩, fun he => he.2⟩
  · simp [livelockCondition_of_nonflow h0 h, h]

/-! ### From the conditions to the livelock -/

/-- A step that only appends the same reports whatever ERR holds does so any number of times. -/
theorem run_of_repeating {s : State} {events : List Event}
    (h : ∀ e, step { s with err := e } = .next { s with err := e ++ events }) (n : Nat) (e : List Event) :
    Host.Core.run core n { s with err := e } = .next { s with err := e ++ (List.replicate n events).flatten } := by
  induction n generalizing e with
  | zero => rw [List.replicate_zero, List.flatten_nil, List.append_nil]; rfl
  | succ n ih => rw [run_succ (h e), ih, List.replicate_succ, List.flatten_cons, List.append_assoc]

/-- Where fetch reads past the end of memory, it reports (R71). -/
theorem fetchReports_ne_nil {pc : PcWord} (h : 254 ≤ pc.toNat) : fetchReports pc ≠ [] := by
  have h2 : ¬ pc.toNat + 2 < 256 := by omega
  simp [fetchReports, h2]

theorem eq_oob_of_silent_reg {op : Latch} (h : (reg op).refusal = some none) : op = .oob := by
  cases op with
  | oob => rfl
  | byte b =>
    by_cases hb : b.toNat < 8
    · rw [reg_byte_lt hb] at h
      cases h
    · rw [reg_byte_ge (Nat.not_lt.1 hb)] at h
      cases h

theorem eq_oob_of_silent_pushOperands {op : Latch} {s : State} (h : (pushOperands op s).refusal = some none) :
    op = .oob := by
  refine eq_oob_of_silent_reg ?_
  cases hr : reg op with
  | squashed e => rwa [pushOperands, hr] at h
  | ok r =>
    by_cases hsp : s.sp = 0#8
    · simp [pushOperands, hr, hsp, decSp_zero, Checked.refusal] at h
    · simp [pushOperands, hr, decSp_pos hsp, Checked.refusal] at h

/-- A flow instruction refused without a report of its own has its operand out of bounds (R79). -/
theorem operands_of_silent_refusal {i : Instr} {s : State} (hu : i.unit = .flowControl) (h : refusal i s = some none) :
    i.operands = [.oob] := by
  cases i with
  | call c y x a => rw [Instr.operands, eq_oob_of_silent_pushOperands h]
  | ret c y x =>
    by_cases hsp : s.sp = 255#8
    · simp [refusal, hsp, incSp_top, Checked.refusal] at h
    · simp [refusal, incSp_lt hsp, Checked.refusal] at h
  | jmp c y x a => rw [Instr.operands, eq_oob_of_silent_reg h]
  | jeq c y x a =>
    cases he : s.flags.e with
    | false => simp [refusal, he] at h
    | true => rw [refusal, he] at h; rw [Instr.operands, eq_oob_of_silent_reg h]
  | jne c y x a =>
    cases he : s.flags.e with
    | true => simp [refusal, he] at h
    | false => rw [refusal, he] at h; rw [Instr.operands, eq_oob_of_silent_reg h]
  | unknownFlow2 | unknownFlow3 | unknownFlow7 => cases h
  | _ => cases hu

/-- The cycle of a refused flow instruction: fetch's reports and the refusal's, and nothing else (R77, R80). -/
theorem step_of_refused_flow {s : State} (hs : s.status = .running) (h0 : s.pc.toNat < 256) {r : Option Event}
    (hu : s.nextInstr.unit = .flowControl) (hr : refusal s.nextInstr s = some r) (e : List Event) :
    step { s with err := e } = .next { s with err := e ++ (fetchReports s.pc ++ r.toList) } := by
  rw [← List.append_assoc]
  exact step_of_steps (Steps.cycle (s := { s with err := e }) hs h0 (.stays ((refusal_congr rfl rfl rfl _).trans hr) hu))

/-- A refused flow instruction is reported, by its refusal or by the fetch of its operand (R122). -/
theorem refused_flow_reports {s : State} (hu : s.nextInstr.unit = .flowControl) {r : Option Event}
    (hr : refusal s.nextInstr s = some r) : fetchReports s.pc ++ r.toList ≠ [] := by
  cases r with
  | some v => exact List.append_ne_nil_of_right_ne_nil _ (List.cons_ne_nil v [])
  | none =>
    have hops := decode_operands (s.mem.read s.pc.toNat) (s.latch (s.pc.toNat + 1)) (s.latch (s.pc.toNat + 2))
    change s.nextInstr.operands <+: _ at hops
    rw [operands_of_silent_refusal hu hr] at hops
    have hpc : ¬ s.pc.toNat + 1 < 256 := fun hlt => by
      rw [latch_lt hlt] at hops
      cases (List.cons_prefix_cons.1 hops).1
    exact List.append_ne_nil_of_left_ne_nil (fetchReports_ne_nil (by omega)) _

/-- What the next cycle executes, with the opcode in memory. -/
theorem cycleExecutes_eq {s : State} (h0 : s.pc.toNat < 256) : cycleExecutes s = (refusal s.nextInstr s).isNone := by
  rw [← executes_eq, cycleExecutes, latch_lt h0, State.nextInstr]

theorem livelocked_of_oob {s : State} (hs : s.status = .running) (h0 : 256 ≤ s.pc.toNat) : s.Livelocked := by
  refine ⟨by rw [cycleExecutes, latch_ge h0], fetchReports s.pc, fetchReports_ne_nil (by omega), fun n => ?_⟩
  exact run_of_repeating (events := fetchReports s.pc) (fun e => step_of_oob (s := { s with err := e }) hs h0) n s.err

theorem livelocked_of_refused_flow {s : State} (hs : s.status = .running) (h0 : s.pc.toNat < 256)
    (hu : s.nextInstr.unit = .flowControl) {r : Option Event} (hr : refusal s.nextInstr s = some r) : s.Livelocked := by
  refine ⟨by rw [cycleExecutes_eq h0, hr]; rfl, fetchReports s.pc ++ r.toList, refused_flow_reports hu hr, fun n => ?_⟩
  exact run_of_repeating (step_of_refused_flow hs h0 hu hr) n s.err

/-! ### From the livelock to the conditions -/

/-- A refused instruction that leaves `pc` and Running is a flow instruction: the others advance or end the run (R76, R123). -/
theorem unit_of_refuse_stays {i : Instr} {e : Option Event} {s : State} (hpc : (s.refuse i e).pc = s.pc)
    (hs : (s.refuse i e).status = .running) : i.unit = .flowControl := by
  by_contra hu
  by_cases hf : i.unit = .alu ∧ i.formatCnt = none
  · rw [refuse_fatal hf.1 hf.2] at hs
    cases hs
  · rw [refuse_nonflow hu fun ha => Option.isSome_iff_ne_none.2 fun hn => hf ⟨ha, hn⟩] at hpc
    exact nextPc_ne _ _ hpc

/-- In a livelock with the opcode in memory a flow instruction is refused: one cycle already shows it. -/
theorem refused_flow_of_livelocked {s : State} (hs : s.status = .running) (h0 : s.pc.toNat < 256) (h : s.Livelocked) :
    s.nextInstr.unit = .flowControl ∧ ∃ e, refusal s.nextInstr s = some e := by
  obtain ⟨hexec, events, -, hrun⟩ := h
  rw [cycleExecutes_eq h0, Option.isNone_eq_false_iff, Option.isSome_iff_exists] at hexec
  obtain ⟨e, he⟩ := hexec
  have hstep : step s = .next (s.fetched.refuse s.nextInstr e) :=
    (step_of_opcode hs h0).trans (exec_of_refusal ((refusal_congr rfl rfl rfl _).trans he))
  have hnext := (run_succ hstep 0).symm.trans (hrun 1)
  injection hnext with hnext
  have hpc : (s.fetched.refuse s.nextInstr e).pc = s.pc := by rw [hnext]
  have hstatus : (s.fetched.refuse s.nextInstr e).status = s.status := by rw [hnext]
  exact ⟨unit_of_refuse_stays hpc (hstatus.trans hs), e, he⟩

/-- Settles O57: `pc` out of bounds is the first condition; with the opcode in memory, livelocks and conditions are both the
refused flow instructions. -/
theorem livelocksAreExactlyFour : Obligations.LivelocksAreExactlyFour := by
  intro s hs
  by_cases h0 : s.pc.toNat < 256
  · rw [livelockCondition_iff h0]
    exact ⟨refused_flow_of_livelocked hs h0, fun ⟨hu, _, he⟩ => livelocked_of_refused_flow hs h0 hu he⟩
  · have hge : 256 ≤ s.pc.toNat := Nat.not_lt.1 h0
    exact ⟨fun _ => by simp [State.livelockCondition, hge], fun _ => livelocked_of_oob hs hge⟩

end Sys2Proof.Machine
end

section
/-!
PROOFS. The frames: which parts of the state each instruction leaves as they are (spec/10_state.md sections 2 to 5,
spec/20_memory.md section 2, spec/40_fetch_decode_loop.md sections 5 to 7), each a case analysis of `Acts` and `Runs`.
-/

namespace Sys2Proof.Machine

open Sys2Proof

/-! ### The program counter -/

/-- An instruction outside the flow class that executes makes the loop's advance (R76). -/
theorem acts_pc_of_nonflow {i : Instr} {s t : State} (h : Acts s i t) (hu : i.unit ≠ .flowControl) :
    t.pc = nextPc s.pc i.cnt := by
  cases h with
  | call | ret | jmp | jeqTaken | jeqNotTaken | jneTaken | jneNotTaken => exact absurd rfl hu
  | _ => rfl

/-- So does one that is refused, but for the fatal error (R76, R80). -/
theorem runs_pc_of_nonflow {i : Instr} {s t : State} (h : Runs s i t) (hu : i.unit ≠ .flowControl)
    (hf : i.unit = .alu → i.formatCnt.isSome = true) : t.pc = nextPc s.pc i.cnt := by
  cases h with
  | acts h => exact acts_pc_of_nonflow h hu
  | squashed => rfl
  | stays _ hflow => exact absurd hflow hu
  | fatal _ halu hnone =>
    exact absurd hnone (Option.isSome_iff_ne_none.1 (hf halu))

/-- Settles O33: the advance is exact from where an opcode can be fetched. -/
theorem nonFlowAdvancesByLength : Obligations.NonFlowAdvancesByLength := by
  intro i s t h hu hf hpc
  rw [runs_pc_of_nonflow ((exec_eq_next_iff i s t).1 h) hu hf, nextPc_toNat (by omega), Instr.length, Nat.add_assoc]

/-- A flow instruction that executes jumps to an 8-bit target, or is JEQ or JNE and falls through (R110 to R114). -/
theorem acts_pc_of_flow {i : Instr} {s t : State} (h : Acts s i t) (hu : i.unit = .flowControl) :
    t.pc.toNat ≤ 255 ∨ t.pc = nextPc s.pc i.cnt ∧ (i.rowMatch = 0x15 ∨ i.rowMatch = 0x16) := by
  cases h with
  | call | ret | jmp | jeqTaken | jneTaken => exact .inl (zext9_le_255 _)
  | jeqNotTaken => exact .inr ⟨rfl, .inl rfl⟩
  | jneNotTaken => exact .inr ⟨rfl, .inr rfl⟩
  | _ => cases hu

/-- Settles O34: a flow instruction that is refused leaves `pc`. -/
theorem flowLeavesPcAtTarget : Obligations.FlowLeavesPcAtTarget := by
  intro i s t h hu
  cases (exec_eq_next_iff i s t).1 h with
  | acts h =>
    obtain htarget | hfall := acts_pc_of_flow h hu
    · exact .inl htarget
    · exact .inr (.inr hfall)
  | squashed _ hnot => exact absurd hu hnot
  | stays => exact .inr (.inl rfl)
  | fatal => exact .inr (.inl rfl)

/-! ### Registers -/

theorem getElem_set_of_val_ne (v : Vector Byte 8) {q r : RegIdx} (x : Byte) (h : q ≠ r) :
    (v.set q.val x)[r.val] = v[r.val] :=
  Vector.getElem_set_ne q.isLt r.isLt fun e => h (Fin.ext e)

/-- An operand that names `q` and not `r` (R53). -/
theorem ne_of_names_eq_false {q r : RegIdx} (h : Latch.names (regLatch q) r = false) : q ≠ r := by
  rintro rfl
  simp [Latch.names] at h

/-- An effect writes the registers of the table of R13 and no other. -/
theorem acts_regs {i : Instr} {s t : State} {r : RegIdx} (h : Acts s i t) (hr : writesReg i r = false) :
    t.regs[r.val] = s.regs[r.val] := by
  have set_ne (v : Vector Byte 8) (q : RegIdx) (x : Byte) (hq : q ≠ r) : (v.set q.val x)[r.val] = v[r.val] :=
    getElem_set_of_val_ne v x hq
  cases h with
  | ldi c x q v => exact set_ne _ q _ (ne_of_names_eq_false hr)
  | add c x a b => exact set_ne _ a _ (ne_of_names_eq_false hr)
  | mul c x a b => exact set_ne _ a _ (ne_of_names_eq_false hr)
  | push | call | ret => exact set_ne _ 7 _ (ne_of_beq_false hr).symm
  | pop c x q =>
    obtain ⟨hq, h7⟩ := Bool.or_eq_false_iff.1 hr
    exact (set_ne _ 7 _ (ne_of_beq_false h7).symm).trans (set_ne _ q _ (ne_of_names_eq_false hq))
  | _ => rfl

/-- Settles O35: a refusal writes no register at all. -/
theorem registerFrame : Obligations.RegisterFrame := by
  intro i s t r h hr
  cases (exec_eq_next_iff i s t).1 h with
  | acts h => exact acts_regs h hr
  | _ => rfl

/-! ### Memory -/

/-- The address of the one store is that of PUSH and CALL (R31, R93, R110). -/
theorem storeAddress_of_sp {i : Instr} {s : State} {r : RegIdx} (hop : storeOperand i = some (regLatch r))
    (h : s.sp ≠ 0#8) : storeAddress i s = some (s.sp - 1#8).toNat := by
  simp only [storeAddress, hop, pushOperands_of_sp h]

/-- An effect keeps memory or is one store, at the store address. -/
theorem acts_mem {i : Instr} {s t : State} (h : Acts s i t) :
    t.mem = s.mem ∨ ∃ a v, storeAddress i s = some a ∧ t.mem = s.mem.write a v := by
  cases h with
  | push c x r h => exact .inr ⟨_, _, storeAddress_of_sp rfl h, rfl⟩
  | call c y x r h => exact .inr ⟨_, _, storeAddress_of_sp rfl h, rfl⟩
  | _ => exact .inl rfl

/-- So does a run of an instruction: a refusal stores nothing. -/
theorem runs_mem {i : Instr} {s t : State} (h : Runs s i t) :
    t.mem = s.mem ∨ ∃ a v, storeAddress i s = some a ∧ t.mem = s.mem.write a v := by
  cases h with
  | acts h => exact acts_mem h
  | _ => exact .inl rfl

/-- Settles O36: one store is seen at its own address only. -/
theorem memoryFrame : Obligations.MemoryFrame := by
  intro i s t h
  obtain hmem | ⟨a, v, ha, hmem⟩ := runs_mem ((exec_eq_next_iff i s t).1 h)
  · rw [hmem]
    exact ⟨fun _ _ _ _ => rfl, fun _ _ => rfl⟩
  · rw [hmem, ha]
    refine ⟨fun a' haa b hb => ?_, fun hnone => ?_⟩
    · cases haa
      exact Memory.read_write_ne s.mem v hb
    · cases hnone

/-! ### Flags -/

/-- Only CMP writes the flags, and it leaves exactly one set (R103). -/
theorem runs_flags {i : Instr} {s t : State} (h : Runs s i t) :
    t.flags = s.flags ∨ i.rowMatch = 0x27 ∧ t.flags.exactlyOne = true := by
  cases h with
  | acts h =>
    cases h with
    | cmp => exact .inr ⟨rfl, compareFlags_exactlyOne _ _⟩
    | _ => exact .inl rfl
  | _ => exact .inl rfl

/-- Settles O37: the flags are as before, or CMP has set exactly one. -/
theorem flagsFrame : Obligations.FlagsFrame := by
  intro i s t h
  obtain hkeep | ⟨hcmp, hone⟩ := runs_flags ((exec_eq_next_iff i s t).1 h)
  · rw [hkeep]
    exact ⟨fun _ => rfl, fun _ => .inl rfl, id⟩
  · exact ⟨fun hne => absurd hcmp hne, fun _ => .inr hone, fun _ => hone⟩

/-- An effect reads neither L nor G: with any other values of them it is the same but for these two (R16). -/
theorem acts_of_other_LG {i : Instr} {s t : State} (l g : Bool) (h : Acts s i t) :
    ∃ t', Acts { s with flags := ⟨l, g, s.flags.e⟩ } i t' ∧ { t' with flags := t.flags } = t ∧ t'.flags.e = t.flags.e := by
  cases h with
  | hlt c x => exact ⟨_, .hlt c x, rfl, rfl⟩
  | ldi c x r v => exact ⟨_, .ldi c x r v, rfl, rfl⟩
  | prn c x r => exact ⟨_, .prn c x r, rfl, rfl⟩
  | push c x r h => exact ⟨_, .push c x r h, rfl, rfl⟩
  | pop c x r h => exact ⟨_, .pop c x r h, rfl, rfl⟩
  | add c x a b => exact ⟨_, .add c x a b, rfl, rfl⟩
  | mul c x a b => exact ⟨_, .mul c x a b, rfl, rfl⟩
  | cmp c x a b => exact ⟨_, .cmp c x a b, rfl, rfl⟩
  | call c y x r h => exact ⟨_, .call c y x r h, rfl, rfl⟩
  | ret c y x h => exact ⟨_, .ret c y x h, rfl, rfl⟩
  | jmp c y x r => exact ⟨_, .jmp c y x r, rfl, rfl⟩
  | jeqTaken c y x r h => exact ⟨_, .jeqTaken c y x r h, rfl, rfl⟩
  | jeqNotTaken c y x a h => exact ⟨_, .jeqNotTaken c y x a h, rfl, rfl⟩
  | jneTaken c y x r h => exact ⟨_, .jneTaken c y x r h, rfl, rfl⟩
  | jneNotTaken c y x a h => exact ⟨_, .jneNotTaken c y x a h, rfl, rfl⟩

/-- Settles O56: the checks look at E only, so the same ones refuse. -/
theorem noInstructionReadsLOrG : Obligations.NoInstructionReadsLOrG := by
  intro i s t l g hexec
  have hrefusal : refusal i { s with flags := ⟨l, g, s.flags.e⟩ } = refusal i s := refusal_congr rfl rfl rfl i
  suffices hruns : ∃ t', Runs { s with flags := ⟨l, g, s.flags.e⟩ } i t' ∧
      { t' with flags := t.flags } = t ∧ t'.flags.e = t.flags.e by
    obtain ⟨t', ht', hsame⟩ := hruns
    exact ⟨t', exec_of_runs ht', hsame⟩
  cases (exec_eq_next_iff i s t).1 hexec with
  | acts h =>
    obtain ⟨t', ht', hsame⟩ := acts_of_other_LG l g h
    exact ⟨t', .acts ht', hsame⟩
  | squashed h hu hf => exact ⟨_, .squashed (hrefusal.trans h) hu hf, rfl, rfl⟩
  | stays h hu => exact ⟨_, .stays (hrefusal.trans h) hu, rfl, rfl⟩
  | fatal h hu hf => exact ⟨_, .fatal (hrefusal.trans h) hu hf, rfl, rfl⟩

/-! ### Status and the streams -/

/-- Of the effects only HLT's changes `status` (R90). -/
theorem acts_status {i : Instr} {s t : State} (h : Acts s i t) :
    t.status = s.status ∨ t.status = .halted ∧ ∃ c x, i = .hlt c x := by
  cases h with
  | hlt c x => exact .inr ⟨rfl, c, x, rfl⟩
  | _ => exact .inl rfl

/-- `status` stays, is set by HLT, or by the fatal error (R90, R123). -/
theorem runs_status {i : Instr} {s t : State} (h : Runs s i t) :
    t.status = s.status ∨ (t.status = .halted ∧ ∃ c x, i = .hlt c x) ∨
      t.status = .faulted ∧ i.unit = .alu ∧ i.formatCnt = none := by
  cases h with
  | acts h =>
    obtain hkeep | hhlt := acts_status h
    · exact .inl hkeep
    · exact .inr (.inl hhlt)
  | fatal _ hu hf => exact .inr (.inr ⟨rfl, hu, hf⟩)
  | _ => exact .inl rfl

/-- Only PRN writes OUT (R92). -/
theorem runs_out {i : Instr} {s t : State} (h : Runs s i t) : t.out = s.out ∨ ∃ c x a, i = .prn c x a := by
  cases h with
  | acts h =>
    cases h with
    | prn c x r => exact .inr ⟨c, x, _, rfl⟩
    | _ => exact .inl rfl
  | _ => exact .inl rfl

/-- An effect reports nothing (R80). -/
theorem acts_err {i : Instr} {s t : State} (h : Acts s i t) : t.err = s.err := by
  cases h <;> rfl

theorem append_toList_cases (l : List Event) (e : Option Event) : l ++ e.toList = l ∨ ∃ v, l ++ e.toList = l ++ [v] := by
  cases e with
  | none => exact .inl (List.append_nil l)
  | some v => exact .inr ⟨v, rfl⟩

/-- A run reports at most one event of its own (R127). -/
theorem runs_err {i : Instr} {s t : State} (h : Runs s i t) : t.err = s.err ∨ ∃ e, t.err = s.err ++ [e] := by
  cases h with
  | acts h => exact .inl (acts_err h)
  | _ => exact append_toList_cases s.err _

/-- Settles O38, one lemma for each of the three. -/
theorem statusAndStreamsFrame : Obligations.StatusAndStreamsFrame := by
  intro i s t h
  have hr := (exec_eq_next_iff i s t).1 h
  refine ⟨fun hhlt hf => ?_, fun hprn => ?_, runs_err hr⟩
  · obtain hkeep | ⟨-, c, x, rfl⟩ | ⟨-, hu, hnone⟩ := runs_status hr
    · exact hkeep
    · exact absurd rfl hhlt
    · exact absurd hnone (Option.isSome_iff_ne_none.1 (hf hu))
  · obtain hkeep | ⟨c, x, a, rfl⟩ := runs_out hr
    · exact hkeep
    · exact absurd rfl hprn

/-- Settles O39: an instruction executes where no check refuses it, and the refusals touch ERR, `pc` and `status` only. -/
theorem squashIsAllOrNothing : Obligations.SquashIsAllOrNothing := by
  intro i s t hexec
  rw [executes_eq]
  cases (exec_eq_next_iff i s t).1 hexec with
  | acts h =>
    rw [refusal_of_acts h]
    exact ⟨fun _ => acts_err h, nofun⟩
  | squashed h hu hf =>
    rw [h]
    refine ⟨nofun, fun _ => ⟨rfl, rfl, rfl, rfl, ?_⟩⟩
    rw [if_neg]
    · rfl
    · rintro (⟨-, halu, hnone⟩ | hflow)
      · exact Option.isSome_iff_ne_none.1 (hf halu) hnone
      · exact hu hflow
  | stays h hu =>
    rw [h]
    refine ⟨nofun, fun _ => ⟨rfl, rfl, rfl, rfl, ?_⟩⟩
    rw [if_pos (.inr hu)]
  | fatal h hu hf =>
    rw [h]
    refine ⟨nofun, fun _ => ⟨rfl, rfl, rfl, rfl, ?_⟩⟩
    rw [if_pos (.inl ⟨rfl, hu, hf⟩)]

end Sys2Proof.Machine
end

section
/-!
PROOFS. The cycle (spec/40_fetch_decode_loop.md sections 1 to 5 and 8): fetch, the table row a byte selects, halting, the growth of
the streams, and the aliases of spec/30_encoding.md section 4.
-/

namespace Sys2Proof.Machine

open Sys2Proof

/-! ### Fetch -/

/-- The report of one read, as a filter on its address (R33). -/
theorem read_report_eq_filter (a : Nat) :
    (if a < 256 then [] else [Event.outOfBounds (a : Int)]) =
      ([a].filter fun a => 256 ≤ a).map fun (a : Nat) => Event.outOfBounds (a : Int) := by
  by_cases h : a < 256
  · simp [h]
  · simp [h, Nat.not_lt.1 h]

/-- The reports of fetch are one for each of the three addresses that is past the end of memory, in address order (R71). -/
theorem fetchReports_eq_filter (pc : PcWord) :
    fetchReports pc = (([0, 1, 2].map fun k => pc.toNat + k).filter fun a => 256 ≤ a).map
      fun (a : Nat) => Event.outOfBounds (a : Int) := by
  have hmap : ([0, 1, 2].map fun k => pc.toNat + k) = [pc.toNat] ++ [pc.toNat + 1] ++ [pc.toNat + 2] := rfl
  rw [hmap, List.filter_append, List.filter_append, List.map_append, List.map_append, ← read_report_eq_filter,
    ← read_report_eq_filter, ← read_report_eq_filter]
  rfl

/-- The addresses may be made integers first, as the statement of O29 has it. -/
theorem map_outOfBounds_natCast (l : List Nat) :
    (l.map fun (a : Nat) => Event.outOfBounds (a : Int)) =
      (l >>= fun a => pure (a : Int)).map fun a => Event.outOfBounds a := by
  rw [bind_pure_comp, List.map_eq_map, List.map_map]
  rfl

/-- Settles O29: `fetch_eq` says it in terms of the latches and the reports. -/
theorem fetchReadsThreeBytes : Obligations.FetchReadsThreeBytes := by
  intro s
  rw [fetch_eq, State.fetched, fetchReports_eq_filter, map_outOfBounds_natCast]
  rfl

/-- Settles O30: all three addresses are past the end of memory. -/
theorem opcodeOutOfBoundsDoesNothing : Obligations.OpcodeOutOfBoundsDoesNothing := by
  intro s hs h0
  have hall : fetchReports s.pc = [.outOfBounds (s.pc.toNat : Int), .outOfBounds ((s.pc.toNat : Int) + 1),
      .outOfBounds ((s.pc.toNat : Int) + 2)] := by
    have h1 : ¬ s.pc.toNat + 1 < 256 := by omega
    have h2 : ¬ s.pc.toNat + 2 < 256 := by omega
    simp [fetchReports, Nat.not_lt.2 h0, h1, h2]
  rw [step_of_oob hs h0, State.fetched, hall]

theorem hostRead_nat (a : Nat) (s : State) : hostRead (a : Int) s = s.latch a := by
  rw [hostRead, memRead_nat]

/-- Settles O53: the tap's three reads are those of the cells. -/
theorem traceSamplesState : Obligations.TraceSamplesState := by
  intro s
  have h1 : hostRead ((s.pc.toNat : Int) + 1) s = s.latch (s.pc.toNat + 1) := hostRead_nat (s.pc.toNat + 1) s
  have h2 : hostRead ((s.pc.toNat : Int) + 2) s = s.latch (s.pc.toNat + 2) := hostRead_nat (s.pc.toNat + 2) s
  simp only [traceTap, hostRead_nat, h1, h2]

/-! ### Running the decoded instruction -/

/-- Bytes that decode are there only where the opcode is in memory (R72). -/
theorem pc_lt_of_decodeBytes {s : State} {i : Instr} (h : decodeBytes s.fetchBytes = .ok i) : s.pc.toNat < 256 := by
  by_contra h0
  have hge : 256 ≤ s.pc.toNat := Nat.not_lt.1 h0
  rw [State.fetchBytes, latch_ge hge, latch_ge (by omega), latch_ge (by omega)] at h
  cases h

/-- The step of a running machine whose bytes at `pc` decode (R73). -/
theorem step_of_decodeBytes {s : State} {i : Instr} (hs : s.status = .running) (h : decodeBytes s.fetchBytes = .ok i) :
    step s = exec i s.fetched := by
  have h0 := pc_lt_of_decodeBytes h
  have hi := (decodeBytes_fetchBytes h0).symm.trans h
  cases hi
  exact step_of_opcode hs h0

/-- Settles O27: `State.fetched` is the state with fetch's reports added. -/
theorem stepRunsDecodedInstruction : Obligations.StepRunsDecodedInstruction :=
  fun _ _ hs h => step_of_decodeBytes hs h

/-- Outside Running any number of steps keeps the state. -/
theorem run_of_not_running {s : State} (h : s.status ≠ .running) (n : Nat) : Host.Core.run core n s = .next s := by
  induction n with
  | zero => rfl
  | succ n ih => rw [run_succ (step_of_not_running h), ih]

/-- Settles O31: the machine by induction on the steps, the host's transactions case by case. -/
theorem nothingHappensOutsideRunning : Obligations.NothingHappensOutsideRunning := by
  refine ⟨fun s n h => run_of_not_running h n, fun s a h ha => ?_⟩
  cases hs : s.status with
  | ready | running => simp [State.ended, hs] at h
  | halted | faulted =>
    cases a with
    | reset => exact absurd rfl ha
    | write addr v => simp only [hostAct, hostWrite, hs]
    | run => simp only [hostAct, hostRun, hs]

/-! ### Halting -/

/-- A step into Halted ran HLT (R82, R90). -/
theorem nextInstr_of_halting {s t : State} (h : Steps s t) (ht : t.status = .halted) (hs : s.status ≠ .halted) :
    decodeBytes s.fetchBytes = .ok s.nextInstr ∧ ∃ c x, s.nextInstr = .hlt c x := by
  cases h with
  | idle => exact absurd ht hs
  | oob => exact absurd ht hs
  | cycle _ h0 hr =>
    obtain hkeep | ⟨-, hhlt⟩ | ⟨hfault, -⟩ := runs_status hr
    · exact absurd (hkeep.symm.trans ht) hs
    · exact ⟨decodeBytes_fetchBytes h0, hhlt⟩
    · cases hfault.symm.trans ht

/-- Settles O10: HLT's effect, that no other effect sets Halted, and the reports of the two reads past the end of memory. -/
theorem hltHaltsAndAdvances : Obligations.HltHaltsAndAdvances := by
  refine ⟨fun cnt b3 s => exec_of_acts (.hlt cnt b3), fun s t h ht hs => ?_, fun s hs hpc hir => ?_⟩
  · obtain ⟨hdec, c, x, hhlt⟩ := nextInstr_of_halting ((step_eq_next_iff s t).1 h) ht hs
    exact ⟨c, x, by rw [hdec, hhlt]⟩
  · have hpcn : s.pc.toNat = 255 := by rw [hpc]; rfl
    have hdec : decode (0x01 : Byte) (s.latch 256) (s.latch 257) = .hlt 0 false := rfl
    rw [step_of_opcode hs (by omega), hpcn, hir, hdec, exec_of_acts (.hlt 0 false), State.fetched, hpc]
    rfl

/-- Settles O11: the advance is exact, and the machine is out of Running. -/
theorem hltCycleIsTheLast : Obligations.HltCycleIsTheLast := by
  intro s cnt b3 hs hdec
  have h0 := pc_lt_of_decodeBytes hdec
  refine ⟨_, (step_of_decodeBytes hs hdec).trans (exec_of_acts (.hlt cnt b3)), rfl, nextPc_toNat (by rw [fetched_pc]; omega) cnt,
    fun n => run_of_not_running ?_ n⟩
  intro hrunning
  cases hrunning

/-! ### The row a byte selects -/

theorem fieldsOf_cnt_eq (ir : Byte) : (fieldsOf ir).cnt = BitVec.ofNat 2 (ir.toNat / 64) := by
  have hlt := ir.isLt
  apply BitVec.eq_of_toNat_eq
  rw [fieldsOf_cnt_toNat, BitVec.toNat_ofNat]
  omega

/-- A cycle runs the instruction of any row the byte at `pc` lies in (R57, R73). -/
theorem step_of_inRow {s : State} (hs : s.status = .running) (h0 : s.pc.toNat < 256) {i : Instr}
    (h : s.mem.read s.pc.toNat &&& i.rowMask = i.rowMatch) :
    step s = exec (i.fill (BitVec.ofNat 2 ((s.mem.read s.pc.toNat).toNat / 64)) ((s.mem.read s.pc.toNat).getLsbD 5)
      ((s.mem.read s.pc.toNat).getLsbD 3) (s.latch (s.pc.toNat + 1)) (s.latch (s.pc.toNat + 2))) s.fetched := by
  rw [step_of_opcode hs h0, decode_of_inRow h, fieldsOf_cnt_eq]

/-- Settles O28: each row is that of an instruction, with any count, bits and operands. -/
theorem cycleFollowsOpcodeTable : Obligations.CycleFollowsOpcodeTable := by
  intro s hs h0
  have row (i : Instr) (h : s.mem.read s.pc.toNat &&& i.rowMask = i.rowMatch) := step_of_inRow hs h0 h
  exact ⟨row (.hlt 0 false), row (.ldi 0 false .oob .oob), row (.prn 0 false .oob), row (.push 0 false .oob),
    row (.pop 0 false .oob), row (.add 0 false .oob .oob), row (.mul 0 false .oob .oob), row (.cmp 0 false .oob .oob),
    row (.call 0 false false .oob), row (.ret 0 false false), row (.jmp 0 false false .oob),
    row (.jeq 0 false false .oob), row (.jne 0 false false .oob), row (.unknownCore0 0 false),
    row (.unknownCore3 0 false), row (.unknownCore4 0 false), row (.unsupportedAlu1 0 false),
    row (.unsupportedAlu3 0 false), row (.unsupportedAlu4 0 false), row (.unsupportedAlu5 0 false),
    row (.unsupportedAlu6 0 false), row (.unknownFlow2 0 false false), row (.unknownFlow3 0 false false),
    row (.unknownFlow7 0 false false)⟩

/-! ### Aliases -/

/-- Two outcomes that agree but for `pc`, and there too if `c = c'`. -/
def AgreeButPc (c c' : BitVec 2) (o o' : Outcome) : Prop :=
  ∃ t t', o = .next t ∧ o' = .next t' ∧ { t with pc := 0 } = { t' with pc := 0 } ∧ (c = c' → t = t')

theorem agreeButPc_advance (c c' : BitVec 2) (u : State) :
    AgreeButPc c c' (.next (advance c u)) (.next (advance c' u)) :=
  ⟨_, _, rfl, rfl, rfl, fun h => by rw [h]⟩

theorem agreeButPc_rfl (c c' : BitVec 2) (u : State) : AgreeButPc c c' (.next u) (.next u) :=
  ⟨_, _, rfl, rfl, rfl, fun _ => rfl⟩

/-- The meaning of an instruction looks at the opcode byte only for the advance (R57, R76). -/
theorem exec_fill_agree {i : Instr} (h : i.formatCnt.isSome = true) (c c' : BitVec 2) (y y' x x' : Bool)
    (opa opb : Latch) (s : State) :
    AgreeButPc c c' (exec (i.fill c y x opa opb) s) (exec (i.fill c' y' x' opa opb) s) := by
  cases i with
  | hlt | ldi | prn | push | pop | add | mul | cmp => exact agreeButPc_advance c c' _
  | call | ret | jmp => exact agreeButPc_rfl c c' _
  | jeq =>
    show AgreeButPc c c' (.next (if s.flags.e then jump opa s else advance c s))
      (.next (if s.flags.e then jump opa s else advance c' s))
    split
    · exact agreeButPc_rfl c c' _
    · exact agreeButPc_advance c c' s
  | jne =>
    show AgreeButPc c c' (.next (if s.flags.e then advance c s else jump opa s))
      (.next (if s.flags.e then advance c' s else jump opa s))
    split
    · exact agreeButPc_advance c c' s
    · exact agreeButPc_rfl c c' _
  | _ => cases h

/-- The match of a row tells its mask (R57). -/
theorem rowMask_of_rowMatch {i j : Instr} (h : i.rowMatch = j.rowMatch) : i.rowMask = j.rowMask := by
  have hflow : i.unit = .flowControl ↔ j.unit = .flowControl := by
    rw [← decide_eq_decide, ← rowMatch_bit_four, ← rowMatch_bit_four, h]
  simp only [rowMask_eq, hflow]

/-- Settles O9: both bytes decode to the instruction of the one row, each with its own count and bits. -/
theorem aliasesDoTheSame : Obligations.AliasesDoTheSame := by
  intro ir ir' opa opb s t t' hrow hfmt ht ht'
  have hin' : ir' &&& (decode ir opa opb).rowMask = (decode ir opa opb).rowMatch := by
    rw [rowMask_of_rowMatch hrow, hrow]
    exact decode_inRow ir' opa opb
  have hfill := decode_of_inRow (decode_inRow ir opa opb) opa opb
  have hfill' := decode_of_inRow hin' opa opb
  obtain ⟨u, u', hu, hu', hbut, hcnt⟩ := exec_fill_agree hfmt (fieldsOf ir).cnt (fieldsOf ir').cnt (ir.getLsbD 5)
    (ir'.getLsbD 5) (ir.getLsbD 3) (ir'.getLsbD 3) opa opb s
  rw [← hfill, ht] at hu
  rw [← hfill', ht'] at hu'
  cases hu
  cases hu'
  exact ⟨hbut, fun h => hcnt (by rw [fieldsOf_cnt_eq, fieldsOf_cnt_eq, h])⟩

/-! ### Growth -/

/-- The step's own streams are among the earlier contents it appends the same to. -/
theorem exists_appended {s t : State} (h : step s = .next t) :
    ∃ (sent : List Byte) (reported : List Event), t.out = s.out ++ sent ∧ t.err = s.err ++ reported ∧
      ∀ e o, step { s with err := e, out := o } = .next { t with err := e ++ reported, out := o ++ sent } := by
  obtain ⟨sent, reported, hall⟩ := steps_streams ((step_eq_next_iff s t).1 h)
  have hown := h.symm.trans (step_of_steps (hall s.err s.out))
  injection hown with hown
  refine ⟨sent, reported, ?_, ?_, fun e o => step_of_steps (hall e o)⟩
  · rw [hown]
  · rw [hown]

/-- A running machine stays Running, halts or faults (R19). -/
theorem steps_status {s t : State} (h : Steps s t) : s.status.mayBecome t.status = true := by
  cases h with
  | idle => cases s.status <;> rfl
  | oob h => rw [fetched_status, h]; rfl
  | cycle h _ hr =>
    obtain hkeep | ⟨hhalt, -⟩ | ⟨hfault, -⟩ := runs_status hr
    · rw [hkeep, fetched_status, h]; rfl
    · rw [hhalt, h]; rfl
    · rw [hfault, h]; rfl

/-- Settles O49: what a step appends, and where `status` may move. -/
theorem streamsGrowAndStatusMoves : Obligations.StreamsGrowAndStatusMoves := by
  intro s t h
  obtain ⟨sent, reported, hout, herr, -⟩ := exists_appended h
  exact ⟨⟨sent, hout.symm⟩, ⟨reported, herr.symm⟩, steps_status ((step_eq_next_iff s t).1 h)⟩

/-- Settles O54: PRN is the one effect on OUT, and a step appends the same whatever OUT holds. -/
theorem outIsWrittenByPrnAndNeverRead : Obligations.OutIsWrittenByPrnAndNeverRead := by
  refine ⟨rfl, fun i s t h hne => ?_, fun s t h => ?_⟩
  · exact (runs_out ((exec_eq_next_iff i s t).1 h)).resolve_left hne
  · obtain ⟨sent, reported, hout, herr, hall⟩ := exists_appended h
    refine ⟨sent, hout, fun o => ?_⟩
    rw [herr]
    exact hall s.err o

end Sys2Proof.Machine
end

section
/-!
PROOFS. The instructions one by one (spec/41_core_control.md, spec/42_alu.md, spec/43_flow_control.md): where its checks pass an
instruction is its case of `Acts`, and else its refusal.
-/

namespace Sys2Proof.Machine

open Sys2Proof

/-! ### What the checks refuse -/

theorem refusal_reg_ge {b : Byte} (h : 8 ≤ b.toNat) : (reg (.byte b)).refusal = some (some (.badRegister b)) := by
  rw [reg_byte_ge h]
  rfl

/-- A refusal of the first check is that of the chain (R78). -/
theorem refusal_bind {α β : Type} {c : Checked α} {e : Option Event} (h : c.refusal = some e) (k : α → Checked β) :
    (c.bind k).refusal = some e := by
  rw [(refusal_eq_some_iff c e).1 h]
  rfl

/-- After a register operand the next check decides (R78). -/
theorem refusal_bind_regLatch {β : Type} (r : RegIdx) (k : RegIdx → Checked β) :
    ((reg (regLatch r)).bind k).refusal = (k r).refusal := by
  rw [reg_regLatch, bind_ok]

/-- The second operand is looked at where the first names a register (R78). -/
theorem refusal_regReg_second {b : Byte} (a : RegIdx) (h : 8 ≤ b.toNat) :
    (regReg (regLatch a) (.byte b)).refusal = some (some (.badRegister b)) :=
  (refusal_bind_regLatch a _).trans (refusal_bind (refusal_reg_ge h) _)

theorem refusal_regReg_second_oob (a : RegIdx) : (regReg (regLatch a) .oob).refusal = some none :=
  refusal_bind_regLatch a _

/-- The stack pointer at 0 refuses PUSH and CALL (R93, R110). -/
theorem refusal_pushOperands_zero {s : State} (h : s.sp = 0#8) (r : RegIdx) :
    (pushOperands (regLatch r) s).refusal = some (some (.outOfBounds (-1))) := by
  refine (refusal_bind_regLatch r _).trans ?_
  rw [h]
  rfl

/-- An increment that would reach 256 refuses POP (R94). -/
theorem refusal_popOperands_top {s : State} {r : RegIdx} (h : s.popBase r = 255#8) :
    (popOperands (regLatch r) s).refusal = some (some (.outOfBounds 256)) := by
  refine (refusal_bind_regLatch r _).trans (refusal_bind (e := some (.outOfBounds 256)) ?_ _)
  show (incSp (s.popBase r)).refusal = _
  rw [h]
  rfl

theorem refusal_incSp_top {b : Byte} (h : b = 255#8) : (incSp b).refusal = some (some (.outOfBounds 256)) := by
  rw [h]
  rfl

/-! ### The state after a refusal -/

/-- Refused with a report, and the loop advances (R76, R80). -/
theorem exec_reported {i : Instr} {s : State} {v : Event} (h : refusal i s = some (some v))
    (hu : i.unit ≠ .flowControl) (hf : i.unit = .alu → i.formatCnt.isSome = true) :
    exec i s = .next { s with err := s.err ++ [v], pc := s.pc + 1#9 + i.cnt.setWidth 9 } :=
  exec_of_runs (.squashed h hu hf)

/-- Refused without a report of its own: the loop advances, and that is all (R76, R79). -/
theorem exec_skipped {i : Instr} {s : State} (h : refusal i s = some none)
    (hu : i.unit ≠ .flowControl) (hf : i.unit = .alu → i.formatCnt.isSome = true) :
    exec i s = .next { s with pc := s.pc + 1#9 + i.cnt.setWidth 9 } := by
  have hruns := exec_of_runs (.squashed h hu hf)
  rwa [Option.toList_none, List.append_nil] at hruns

/-- The fatal error: the event and the end of the run (R123). -/
theorem exec_faulted {i : Instr} {s : State} {v : Event} (h : refusal i s = some (some v)) (hu : i.unit = .alu)
    (hf : i.formatCnt = none) : exec i s = .next { s with err := s.err ++ [v], status := .faulted } :=
  exec_of_runs (.fatal h hu hf)

/-- A flow instruction refused with a report keeps `pc` (R80). -/
theorem exec_flow_reported {i : Instr} {s : State} {v : Event} (h : refusal i s = some (some v))
    (hu : i.unit = .flowControl) : exec i s = .next { s with err := s.err ++ [v] } :=
  exec_of_runs (.stays h hu)

/-- A flow instruction refused without a report of its own changes nothing (R79, R80). -/
theorem exec_flow_skipped {i : Instr} {s : State} (h : refusal i s = some none) (hu : i.unit = .flowControl) :
    exec i s = .next s := by
  have hruns := exec_of_runs (.stays h hu)
  rwa [Option.toList_none, List.append_nil] at hruns

/-! ### Core Control -/

/-- Settles O12: the register operand is checked before the immediate. -/
theorem ldiLoadsImmediate : Obligations.LdiLoadsImmediate := by
  refine fun cnt b3 s => ⟨fun r v => ?_, fun r => ?_, fun b opb hb => ?_, fun opb => ?_⟩
  · exact exec_of_acts (.ldi cnt b3 r v)
  · exact exec_skipped (refusal_bind_regLatch r _) nofun nofun
  · exact exec_reported (refusal_bind (refusal_reg_ge hb) _) nofun nofun
  · exact exec_skipped rfl nofun nofun

/-- Settles O13: one case of `Acts`, and the two refusals of a register operand. -/
theorem prnEmitsRegister : Obligations.PrnEmitsRegister := by
  refine fun cnt b3 s => ⟨fun r => ?_, fun b hb => ?_, ?_⟩
  · exact exec_of_acts (.prn cnt b3 r)
  · exact exec_reported (refusal_reg_ge hb) nofun nofun
  · exact exec_skipped rfl nofun nofun

/-- Where a push stores: the decrement does not wrap (R93). -/
theorem toNat_sub_one {b : Byte} (h : b ≠ 0#8) : (b - 1#8).toNat = b.toNat - 1 := by
  bv_omega

/-- What PUSH stores and CALL jumps to: the register as it is after the decrement (R93, R110, decision D15). -/
theorem getReg_setSp (s : State) (v : Byte) (r : RegIdx) :
    (s.setSp v).getReg r = if r = 7 then v else s.regs[r.val] := by
  rw [setSp_eq_setReg, getReg_setReg]
  rfl

/-- Settles O14: the store address and the value stored in the words of the statement. -/
theorem pushStoresBelowStackPointer : Obligations.PushStoresBelowStackPointer := by
  refine fun cnt b3 s => ⟨fun r h => ?_, fun r h => ?_, fun b hb => ?_, ?_⟩
  · have hacts := exec_of_acts (.push cnt b3 r h)
    rwa [toNat_sub_one h, getReg_setSp] at hacts
  · exact exec_reported (refusal_pushOperands_zero h r) nofun nofun
  · exact exec_reported (refusal_bind (refusal_reg_ge hb) _) nofun nofun
  · exact exec_skipped rfl nofun nofun

theorem popBase_of_ne {r : RegIdx} (h : r ≠ 7) (s : State) : s.popBase r = s.sp := if_neg h

theorem popBase_seven (s : State) : s.popBase 7 = s.mem.read s.sp.toNat := rfl

/-- Settles O15: the increment starts at the stack pointer, or at the loaded byte for POP R7. -/
theorem popLoadsAtStackPointer : Obligations.PopLoadsAtStackPointer := by
  refine fun cnt b3 s => ⟨fun r hr h => ?_, fun r hr h => ?_, fun h => ?_, fun h => ?_, fun b hb => ?_, ?_⟩
  · rw [← popBase_of_ne hr s] at h
    have hacts := exec_of_acts (.pop cnt b3 r h)
    rwa [popBase_of_ne hr] at hacts
  · rw [← popBase_of_ne hr s] at h
    exact exec_reported (refusal_popOperands_top h) nofun nofun
  · have hacts := exec_of_acts (.pop (s := s) cnt b3 7 h)
    have hset (v w : Byte) : (s.regs.set (7 : RegIdx).val v).set 7 w = s.regs.set 7 w := Vector.set_set ..
    rwa [popBase_seven, hset] at hacts
  · exact exec_reported (refusal_popOperands_top (r := 7) h) nofun nofun
  · exact exec_reported (refusal_bind (refusal_reg_ge hb) _) nofun nofun
  · exact exec_skipped rfl nofun nofun

/-- Settles O24: the three have no entry in the core table. -/
theorem coreMissReportsAndAdvances : Obligations.CoreMissReportsAndAdvances := by
  rintro cnt b3 s i (rfl | rfl | rfl) <;> exact exec_reported rfl nofun nofun

/-! ### ALU -/

/-- A register just written holds what was written. -/
theorem getElem_set_same (v : Vector Byte 8) (a : RegIdx) (x : Byte) : (v.set a.val x)[a.val] = x :=
  Vector.getElem_set_self a.isLt

/-- The squashes of an ALU instruction with two register operands (R78, R100): `f` makes the instruction from its latches. -/
theorem exec_regReg_squashes (f : Latch → Latch → Instr) (cnt : BitVec 2) (s : State)
    (hcheck : ∀ a b, refusal (f a b) s = (regReg a b).refusal) (hunit : ∀ a b, (f a b).unit ≠ .flowControl)
    (hfmt : ∀ a b, (f a b).formatCnt.isSome = true) (hcnt : ∀ a b, (f a b).cnt = cnt) :
    (∀ (a : RegIdx) (b : Byte), 8 ≤ b.toNat →
      exec (f (regLatch a) (.byte b)) s =
        .next { s with err := s.err ++ [.badRegister b], pc := s.pc + 1#9 + cnt.setWidth 9 }) ∧
    (∀ (b : Byte) (opb : Latch), 8 ≤ b.toNat →
      exec (f (.byte b) opb) s =
        .next { s with err := s.err ++ [.badRegister b], pc := s.pc + 1#9 + cnt.setWidth 9 }) ∧
    (∀ a : RegIdx, exec (f (regLatch a) .oob) s = .next { s with pc := s.pc + 1#9 + cnt.setWidth 9 }) ∧
    ∀ opb : Latch, exec (f .oob opb) s = .next { s with pc := s.pc + 1#9 + cnt.setWidth 9 } := by
  have reported {a b : Latch} {v : Event} (h : (regReg a b).refusal = some (some v)) :=
    exec_reported ((hcheck a b).trans h) (hunit a b) fun _ => hfmt a b
  have skipped {a b : Latch} (h : (regReg a b).refusal = some none) :=
    exec_skipped ((hcheck a b).trans h) (hunit a b) fun _ => hfmt a b
  simp only [hcnt] at reported skipped
  refine ⟨fun a b hb => ?_, fun b opb hb => ?_, fun a => ?_, fun opb => ?_⟩
  · exact reported (refusal_regReg_second a hb)
  · exact reported (refusal_bind (refusal_reg_ge hb) _)
  · exact skipped (refusal_regReg_second_oob a)
  · exact skipped rfl

/-- Settles O16: the sum as a number, and the squashes. -/
theorem addModulo256 : Obligations.AddModulo256 := by
  refine fun cnt b3 s => ⟨fun a b => ⟨_, exec_of_acts (.add cnt b3 a b), ?_, ?_⟩,
    exec_regReg_squashes (.add cnt b3) cnt s (fun _ _ => rfl) (fun _ _ => nofun) (fun _ _ => rfl) fun _ _ => rfl⟩
  · rw [getElem_set_same, BitVec.toNat_ofNat]
    rfl
  · rw [getElem_set_same]
    rfl

/-- Settles O17, as O16 with the product. -/
theorem mulModulo256 : Obligations.MulModulo256 := by
  refine fun cnt b3 s => ⟨fun a b => ⟨_, exec_of_acts (.mul cnt b3 a b), ?_, ?_⟩,
    exec_regReg_squashes (.mul cnt b3) cnt s (fun _ _ => rfl) (fun _ _ => nofun) (fun _ _ => rfl) fun _ _ => rfl⟩
  · rw [getElem_set_same, BitVec.toNat_ofNat]
    rfl
  · rw [getElem_set_same]
    rfl

/-- The three flags of an unsigned comparison (R103). -/
theorem compareFlags_eq (x y : Byte) :
    compareFlags x y =
      { l := decide (x.toNat < y.toNat), g := decide (y.toNat < x.toNat), e := decide (x.toNat = y.toNat) } := by
  unfold compareFlags
  split
  case isTrue h => simp [h]
  case isFalse h =>
    have hne : x.toNat ≠ y.toNat := fun he => h (BitVec.eq_of_toNat_eq he)
    split
    case isTrue hlt => simp [hlt, hne, Nat.le_of_lt hlt]
    case isFalse hge =>
      have hgt : y.toNat < x.toNat := by omega
      simp [hgt, hne, Nat.le_of_lt hgt]

/-- Settles O18: the flags in the words of the statement. -/
theorem cmpSetsOneFlag : Obligations.CmpSetsOneFlag := by
  refine fun cnt b3 s => ⟨fun a b => ?_,
    exec_regReg_squashes (.cmp cnt b3) cnt s (fun _ _ => rfl) (fun _ _ => nofun) (fun _ _ => rfl) fun _ _ => rfl⟩
  have hacts := exec_of_acts (.cmp (s := s) cnt b3 a b)
  rwa [compareFlags_eq] at hacts

/-- Settles O25: the five have no entry in the ALU's table. -/
theorem unsupportedAluFaults : Obligations.UnsupportedAluFaults := by
  rintro cnt b3 s i (rfl | rfl | rfl | rfl | rfl) <;> exact exec_faulted rfl rfl rfl

/-! ### Flow Control -/

/-- The return address is `pc + 2` modulo 256 (R110, decision D14). -/
theorem returnAddress_eq (pc : PcWord) : returnAddress pc = BitVec.ofNat 8 ((pc.toNat + 2) % 256) := by
  apply BitVec.eq_of_toNat_eq
  simp only [returnAddress, BitVec.toNat_setWidth, BitVec.toNat_add, BitVec.toNat_ofNat]
  omega

/-- Settles O19: the return address, the store address and the target in the words of the statement. -/
theorem callPushesReturnAddress : Obligations.CallPushesReturnAddress := by
  refine fun cnt b5 b3 s => ⟨fun r h => ?_, fun r h => ?_, fun b hb => ?_, ?_⟩
  · have hacts := exec_of_acts (.call cnt b5 b3 r h)
    rwa [toNat_sub_one h, getReg_setSp, returnAddress_eq] at hacts
  · exact exec_flow_reported (refusal_pushOperands_zero h r) rfl
  · exact exec_flow_reported (refusal_bind (refusal_reg_ge hb) _) rfl
  · exact exec_flow_skipped rfl rfl

/-- Settles O20: one case of `Acts`, and the refusal of the increment. -/
theorem retPopsIntoPc : Obligations.RetPopsIntoPc := by
  refine fun cnt b5 b3 s => ⟨fun h => ?_, fun h => ?_⟩
  · exact exec_of_acts (.ret cnt b5 b3 h)
  · exact exec_flow_reported (refusal_incSp_top h) rfl

/-- Settles O21: one case of `Acts`, and the two refusals of a register operand. -/
theorem jmpAssignsPcOnly : Obligations.JmpAssignsPcOnly := by
  refine fun cnt b5 b3 s => ⟨fun r => ?_, fun b hb => ?_, ?_⟩
  · exact exec_of_acts (.jmp cnt b5 b3 r)
  · exact exec_flow_reported (refusal_reg_ge hb) rfl
  · exact exec_flow_skipped rfl rfl

/-- Settles O22: taken, the meaning is JMP's. -/
theorem jeqJumpsOnEqual : Obligations.JeqJumpsOnEqual := by
  refine fun cnt b5 b3 opa s => ⟨fun h => ?_, fun r h hop => ?_, fun h => ?_⟩
  · exact next_congr (if_pos h)
  · rw [hop]
    exact exec_of_acts (.jeqTaken cnt b5 b3 r h)
  · exact exec_of_acts (.jeqNotTaken cnt b5 b3 opa h)

/-- Settles O23: taken, the meaning is JMP's. -/
theorem jneJumpsOnNotEqual : Obligations.JneJumpsOnNotEqual := by
  refine fun cnt b5 b3 opa s => ⟨fun h => ?_, fun r h hop => ?_, fun h => ?_⟩
  · exact next_congr (if_neg (ne_true_of_eq_false h))
  · rw [hop]
    exact exec_of_acts (.jneTaken cnt b5 b3 r h)
  · exact exec_of_acts (.jneNotTaken cnt b5 b3 opa h)

/-- Settles O26: the three have no entry in the flow table. -/
theorem flowMissReportsOnly : Obligations.FlowMissReportsOnly := by
  rintro cnt b5 b3 s i (rfl | rfl | rfl) <;> exact exec_flow_reported rfl rfl

end Sys2Proof.Machine
end

section
/-!
PROOFS. The laws between two instructions (spec/95_test_vectors.md A4) and between a store and the next fetch
(spec/20_memory.md section 5).
-/

namespace Sys2Proof.Machine

open Sys2Proof

/-! ### The stack -/

/-- What PUSH of a register other than the stack pointer leaves for a later instruction (R93). -/
theorem exec_push_spec {s : State} {r : RegIdx} (hsp : s.sp ≠ 0#8) (hr : r ≠ 7) (c : BitVec 2) (x : Bool) :
    ∃ t, exec (.push c x (regLatch r)) s = .next t ∧ t.pc = nextPc s.pc c ∧ t.sp = s.sp - 1#8 ∧
      t.mem.read (s.sp.toNat - 1) = s.getReg r ∧ ∀ p : RegIdx, p ≠ 7 → t.getReg p = s.getReg p := by
  refine ⟨_, exec_of_acts (.push c x r hsp), rfl, ?_, ?_, fun p hp => ?_⟩
  · exact getElem_set_same s.regs 7 _
  · rw [toNat_sub_one hsp, Memory.read_write_same]
    exact getReg_setReg_ne s _ hr
  · exact getElem_set_of_val_ne s.regs _ hp.symm

/-- What POP into a register other than the stack pointer leaves (R94). -/
theorem exec_pop_spec {s : State} {q : RegIdx} (hsp : s.sp ≠ 255#8) (hq : q ≠ 7) (c : BitVec 2) (x : Bool) :
    ∃ t, exec (.pop c x (regLatch q)) s = .next t ∧ t.sp = s.sp + 1#8 ∧ t.getReg q = s.mem.read s.sp.toNat ∧
      ∀ p : RegIdx, p ≠ q → p ≠ 7 → t.getReg p = s.getReg p := by
  have hbase : s.popBase q ≠ 255#8 := by rwa [popBase_of_ne hq]
  refine ⟨_, exec_of_acts (.pop c x q hbase), ?_, ?_, fun p hpq hp => ?_⟩
  · rw [popBase_of_ne hq]
    exact getElem_set_same _ 7 _
  · exact (getElem_set_of_val_ne _ _ hq.symm).trans (getElem_set_same _ q _)
  · exact (getElem_set_of_val_ne _ _ hp.symm).trans (getElem_set_of_val_ne _ _ hpq.symm)

theorem sub_one_ne_255 {b : Byte} (h : b ≠ 0#8) : b - 1#8 ≠ 255#8 := by
  bv_omega

/-- Settles O43: POP loads where PUSH stored, and its increment undoes the decrement. -/
theorem pushThenPop : Obligations.PushThenPop := by
  intro c c' x x' r q s hsp hr hq
  obtain ⟨t, ht, -, htsp, htload, htregs⟩ := exec_push_spec hsp hr c x
  have htop : t.sp ≠ 255#8 := by
    rw [htsp]
    exact sub_one_ne_255 hsp
  obtain ⟨u, hu, husp, huq, huregs⟩ := exec_pop_spec htop hq c' x'
  have hback : u.sp = s.sp := by rw [husp, htsp, BitVec.sub_add_cancel]
  refine ⟨t, u, ht, hu, ?_, hback, fun p hpq => ?_⟩
  · rw [htsp, toNat_sub_one hsp, htload] at huq
    exact huq
  · by_cases hp : p = 7
    · rw [hp]
      exact hback
    · exact (huregs p hpq hp).trans (htregs p hp)

/-- What CALL leaves for a later instruction (R110). -/
theorem exec_call_spec {s : State} (hsp : s.sp ≠ 0#8) (r : RegIdx) (c : BitVec 2) (y x : Bool) :
    ∃ t, exec (.call c y x (regLatch r)) s = .next t ∧ t.regs = s.regs.set 7 (s.sp - 1#8) ∧
      t.mem.read (s.sp - 1#8).toNat = returnAddress s.pc :=
  ⟨_, exec_of_acts (.call c y x r hsp), rfl, Memory.read_write_same ..⟩

/-- The return address is exact where `pc + 2` is a byte (R110). -/
theorem returnAddress_toNat {pc : PcWord} (h : pc.toNat < 254) : (returnAddress pc).toNat = pc.toNat + 2 := by
  rw [returnAddress_eq, BitVec.toNat_ofNat]
  omega

/-- Settles O44: RET loads the return address CALL stored, and its increment undoes the decrement. -/
theorem callThenRet : Obligations.CallThenRet := by
  intro c c' y x y' x' r s hsp hpc
  obtain ⟨t, ht, htregs, htload⟩ := exec_call_spec hsp r c y x
  have htsp : t.sp = s.sp - 1#8 := by
    rw [State.sp, State.getReg, htregs]
    exact getElem_set_same s.regs 7 _
  have htop : t.sp ≠ 255#8 := by
    rw [htsp]
    exact sub_one_ne_255 hsp
  refine ⟨t, _, ht, exec_of_acts (.ret c' y' x' htop), ?_, ?_⟩
  · rw [zext9_toNat, load_eq, htsp, htload, returnAddress_toNat hpc]
  · rw [htsp, BitVec.sub_add_cancel, htregs, Vector.set_set]
    exact Vector.set_getElem_self _

/-! ### CMP and the conditional jumps -/

theorem compareFlags_e (x y : Byte) : (compareFlags x y).e = decide (x = y) :=
  (congrArg Flags.e (compareFlags_eq x y)).trans (decide_eq_decide.2 BitVec.toNat_inj)

/-- Settles O45: E says whether the registers are equal, and CMP leaves them as they are. -/
theorem cmpThenConditionalJump : Obligations.CmpThenConditionalJump := by
  intro c c' x y' x' a b r s
  refine ⟨_, exec_of_acts (.cmp c x a b), fun heq => ?_, fun hne => ?_⟩
  · have he := (compareFlags_e (s.getReg a) (s.getReg b)).trans (decide_eq_true heq)
    exact ⟨exec_of_acts (.jeqTaken c' y' x' r he), exec_of_acts (.jneNotTaken c' y' x' _ he)⟩
  · have he := (compareFlags_e (s.getReg a) (s.getReg b)).trans (decide_eq_false hne)
    exact ⟨exec_of_acts (.jeqNotTaken c' y' x' _ he), exec_of_acts (.jneTaken c' y' x' r he)⟩

/-! ### A store and the next fetch -/

/-- Settles O42: fetch latches the cell that was written. -/
theorem storeIsSeenByLaterFetch : Obligations.StoreIsSeenByLaterFetch := by
  intro s t cnt b3 r hs hdec hr hsp hstep
  obtain ⟨u, hu, hupc, -, huload, -⟩ := exec_push_spec (s := s.fetched) hsp hr cnt b3
  rw [step_of_decodeBytes hs hdec, hu] at hstep
  cases hstep
  have hlt : s.sp.toNat - 1 < 256 := Nat.lt_of_le_of_lt (Nat.sub_le _ _) s.sp.isLt
  have hlatch : t.latch (s.sp.toNat - 1) = .byte s.regs[r.val] := (latch_lt hlt).trans (congrArg Latch.byte huload)
  refine ⟨hupc, hlatch, fun hpc => ?_⟩
  rw [fetch_eq, hpc]
  exact hlatch

end Sys2Proof.Machine
end

section
/-!
PROOFS. Memory accesses, reset and the host's transactions (spec/20_memory.md section 2, spec/70_reset_and_hazards.md sections 1
to 3, spec/30_encoding.md section 6).
-/

namespace Sys2Proof.Machine

open Sys2Proof

/-! ### Accesses -/

/-- A cell reads what was written there, and as before where another one was written (R41). -/
theorem memRead_memWrite {a b : Int} (ha : inRange a = true) (v : Byte) (s : State) :
    (memRead b (memWrite a v s)).1 = if b = a then .byte v else (memRead b s).1 := by
  rw [memWrite_of_inRange ha]
  obtain ⟨hb, hread⟩ | ⟨hb, hread⟩ := memRead_cases b s
  · rw [hread, memRead_of_inRange hb, Memory.read_write]
    have ha0 := ((inRange_iff a).1 ha).1
    have hb0 := ((inRange_iff b).1 hb).1
    have hsame : b.toNat = a.toNat ↔ b = a := by omega
    by_cases hba : b = a <;> simp [hsame, hba]
  · have hba : b ≠ a := fun h => by
      rw [h, ha] at hb
      cases hb
    simp [memRead, hb, hba]

/-- Outside 0 to 255 no cell exists (R32). -/
theorem inRange_eq_false {a : Int} (h : a < 0 ∨ 255 < a) : inRange a = false := by
  rw [← Bool.not_eq_true, inRange_iff]
  omega

/-- Settles O40: a write in the range is one cell's, and outside it both accesses only report. -/
theorem readAfterWrite : Obligations.ReadAfterWrite := by
  refine fun s a b v => ⟨fun h0 h1 => ?_, fun hout => ?_⟩
  · have ha := inRange_of_le_255 h0 h1
    refine ⟨?_, fun hba => ?_, ?_, ?_⟩
    · rw [memRead_memWrite ha, if_pos rfl]
    · rw [memRead_memWrite ha, if_neg hba]
    · rw [memWrite_of_inRange ha]
    · rw [memWrite_of_inRange ha]
  · have ha := ne_true_of_eq_false (inRange_eq_false hout)
    exact ⟨if_neg ha, if_neg ha⟩

/-! ### Reset and the host's transactions -/

/-- Settles O47: no cell is listed, `pc` is 0 and no flag is set. -/
theorem resetMeetsInvariant : Obligations.ResetMeetsInvariant :=
  ⟨Memory.wf_nil, Nat.zero_le 259, rfl⟩

theorem memWrite_inv {s : State} (h : s.Inv) (addr : Int) (v : Byte) : (memWrite addr v s).Inv := by
  obtain ⟨hmem, hpc, hflags⟩ := h
  obtain ⟨ha, hw⟩ | ⟨-, hw⟩ := memWrite_cases addr v s
  · rw [hw]
    obtain ⟨h0, h1⟩ := (inRange_iff addr).1 ha
    have hlt : addr.toNat < Config.memSize := by
      show addr.toNat < 256
      omega
    exact ⟨Memory.wf_write hmem hlt v, hpc, hflags⟩
  · rw [hw]
    exact ⟨hmem, hpc, hflags⟩

/-- Bytes placed below address 256 keep the canonical form. -/
theorem wf_placeBytes {a : Nat} {bytes : List Byte} {m : Memory} (h : m.wf) (ha : a + bytes.length ≤ Config.memSize) :
    (placeBytes a bytes m).wf := by
  induction bytes generalizing a m with
  | nil => exact h
  | cons b rest ih =>
    rw [List.length_cons] at ha
    exact ih (Memory.wf_write h (by omega) b) (by omega)

/-- The host's transactions keep the invariant (R142). -/
theorem hostAct_inv (a : HostAction) {s : State} (h : s.Inv) : (hostAct a s).Inv := by
  cases a with
  | reset => exact resetMeetsInvariant
  | write addr v =>
    show (hostWrite addr v s).Inv
    obtain ⟨-, hw⟩ | ⟨-, hw⟩ := hostWrite_cases addr v s
    · rw [hw]
      exact memWrite_inv h addr v
    · rwa [hw]
  | run =>
    show (hostRun s).Inv
    cases hs : s.status with
    | ready => rwa [hostRun_of_ready hs]
    | running | halted | faulted => rwa [hostRun, hs]

/-- A placed word fits at the `pc` of the state that fetches it (log entry 15). -/
theorem withFetchWord_pc (s : State) (nbits w : Nat) : (s.withFetchWord nbits w).pc.toNat + 2 < 256 := by
  show (if s.pc.toNat + Config.maxOperands < Config.memSize then s.pc else Config.pcReset).toNat + 2 < 256
  split
  · assumption
  · decide

/-- Settles O48: a word is placed where its three bytes fit. -/
theorem hostKeepsInvariant : Obligations.HostKeepsInvariant := by
  refine ⟨fun a s h => hostAct_inv a h, fun s nbits w h => ?_⟩
  obtain ⟨hmem, -, hflags⟩ := h
  have hpc := withFetchWord_pc s nbits w
  exact ⟨wf_placeBytes hmem (Nat.succ_le_of_lt hpc), by omega, hflags⟩

/-- Settles O50: reset is the reset state, and the transactions look at `status` first. -/
theorem resetAndRun : Obligations.ResetAndRun := by
  refine ⟨fun s => rfl, rfl, by decide, rfl, rfl, rfl, fun a => rfl, rfl, rfl, fun s h => ?_, fun s h => ?_,
    fun s a v h => ?_⟩
  · exact hostRun_of_ready h
  · show hostRun s = s
    cases hs : s.status with
    | ready => exact absurd hs h
    | running | halted | faulted => rw [hostRun, hs]
  · obtain ⟨hready, -⟩ | ⟨-, hw⟩ := hostWrite_cases a v s
    · exact absurd hready h
    · exact hw

/-! ### The loader -/

theorem hostLoad_cons (a : Nat) (b : Byte) (rest : List Byte) (s : State) :
    hostLoad a (b :: rest) s = hostLoad (a + 1 : Nat) rest (hostWrite a b s) := rfl

/-- One write of the loader's in Ready: the cell, or the report (R34, R143). -/
theorem hostWrite_of_ready {s : State} (h : s.status = .ready) (a : Nat) (v : Byte) :
    hostWrite a v s = if a < 256 then { s with mem := s.mem.write a v } else s.report (.outOfBounds a) := by
  obtain ⟨-, hw⟩ | ⟨hnot, -⟩ := hostWrite_cases a v s
  · rw [hw]
    simp [memWrite]
  · exact absurd h hnot

theorem hostWrite_read {s : State} (h : s.status = .ready) (a : Nat) (v : Byte) {k : Nat} (hk : k < 256) :
    (hostWrite a v s).mem.read k = if k = a then v else s.mem.read k := by
  rw [hostWrite_of_ready h]
  split
  · exact Memory.read_write s.mem a k v
  · rw [State.report_mem, if_neg (by omega)]

theorem hostWrite_err {s : State} (h : s.status = .ready) (a : Nat) (v : Byte) :
    (hostWrite a v s).err =
      s.err ++ ([a].filter fun a => 256 ≤ a).map fun (a : Nat) => Event.outOfBounds (a : Int) := by
  rw [hostWrite_of_ready h, ← read_report_eq_filter]
  split
  · rw [List.append_nil]
  · rw [State.report_err]

/-- A write of the host's changes memory and ERR only (R142). -/
theorem hostWrite_rest (a : Int) (v : Byte) (s : State) :
    { hostWrite a v s with mem := s.mem, err := s.err } = s := by
  obtain ⟨-, hw⟩ | ⟨-, hw⟩ := hostWrite_cases a v s
  · obtain ⟨-, hm⟩ | ⟨-, hm⟩ := memWrite_cases a v s
    · rw [hw, hm]
    · rw [hw, hm]
      rfl
  · rw [hw]

/-- What the loader leaves in the cells: byte k of the image in cell `a + k`, the others as before (R62). -/
theorem hostLoad_read {s : State} (h : s.status = .ready) (a : Nat) (image : List Byte) {k : Nat} (hk : k < 256) :
    (hostLoad a image s).mem.read k = if a ≤ k then (image[k - a]?).getD (s.mem.read k) else s.mem.read k := by
  induction image generalizing a s with
  | nil => simp [hostLoad]
  | cons b rest ih =>
    rw [hostLoad_cons, ih ((hostWrite_status a b s).trans h), hostWrite_read h a b hk]
    obtain hlt | rfl | hgt := Nat.lt_trichotomy k a
    · rw [if_neg (by omega), if_neg (by omega), if_neg (by omega)]
    · rw [if_neg (by omega), if_pos rfl, if_pos (Nat.le_refl k), Nat.sub_self]
      rfl
    · have hsub : k - a = k - (a + 1) + 1 := by omega
      rw [if_pos (by omega), if_neg (by omega), if_pos (by omega), hsub, List.getElem?_cons_succ]

/-- The loader reports the addresses from 256 on that it was to write, in address order (R34, R143). -/
theorem hostLoad_err {s : State} (h : s.status = .ready) (a : Nat) (image : List Byte) :
    (hostLoad a image s).err =
      s.err ++ ((List.range' a image.length).filter fun a => 256 ≤ a).map fun (a : Nat) => Event.outOfBounds (a : Int) := by
  induction image generalizing a s with
  | nil => exact (List.append_nil s.err).symm
  | cons b rest ih =>
    have hrange : List.range' a (b :: rest).length = [a] ++ List.range' (a + 1) rest.length := List.range'_succ
    rw [hostLoad_cons, ih ((hostWrite_status a b s).trans h), hostWrite_err h, hrange, List.filter_append,
      List.map_append, List.append_assoc]

/-- The loader changes memory and ERR only. -/
theorem hostLoad_rest (a : Int) (image : List Byte) (s : State) :
    { hostLoad a image s with mem := s.mem, err := s.err } = s := by
  induction image generalizing a s with
  | nil => rfl
  | cons b rest ih =>
    have hload := ih (a + 1) (hostWrite a b s)
    have hboth := congrArg (fun u : State => { u with mem := s.mem, err := s.err }) hload
    exact hboth.trans (hostWrite_rest a b s)

/-- The addresses from `c` on among the first `n`. -/
theorem filter_range'_zero (c n : Nat) :
    ((List.range' 0 n).filter fun a => c ≤ a) = List.range' c (n - c) := by
  have hlow (m : Nat) (hm : m ≤ c) : ((List.range' 0 m).filter fun a => c ≤ a) = [] := by
    refine List.filter_eq_nil_iff.2 fun a ha => ?_
    have hlt := (List.mem_range'_1.1 ha).2
    simp only [decide_eq_true_eq]
    omega
  by_cases h : n ≤ c
  · rw [hlow n h, Nat.sub_eq_zero_of_le h]
    rfl
  · have hsplit : List.range' 0 c ++ List.range' c (n - c) = List.range' 0 n := by
      have happend := List.range'_append_1 (s := 0) (m := c) (n := n - c)
      rwa [Nat.zero_add, Nat.add_sub_of_le (Nat.le_of_not_le h)] at happend
    rw [← hsplit, List.filter_append, hlow c (Nat.le_refl c), List.nil_append]
    refine List.filter_eq_self.2 fun a ha => ?_
    exact decide_eq_true (List.mem_range'_1.1 ha).1

/-- Settles O52: the three lemmas at address 0. -/
theorem loaderPlacesImage : Obligations.LoaderPlacesImage := by
  refine fun image s h => ⟨fun k hk => ?_, ?_, hostLoad_rest 0 image s⟩
  · have hread := hostLoad_read h 0 image hk
    rw [if_pos (Nat.zero_le k), Nat.sub_zero] at hread
    refine hread.trans ?_
    split
    case isTrue hlt => rw [List.getElem?_eq_getElem hlt, Option.getD_some]
    case isFalse hge => rw [List.getElem?_eq_none (Nat.not_lt.1 hge), Option.getD_none]
  · have herr := hostLoad_err h 0 image
    rwa [filter_range'_zero] at herr

end Sys2Proof.Machine
end
